-- ==== Sys2Proof/Word.lean ====
section
/-! DEFINITION. The widths of the block's values (spec 00_scope R7) and the indexed read and write of a
per-channel register (R9). -/

namespace Sys2Proof

/-- An accumulator or a tuning word: 32 bits, added modulo `2^32` (R7, R9). -/
abbrev Word := BitVec 32

/-- A sample, a compare value or a table offset: 8 bits (R7). -/
abbrev Byte := BitVec 8

/-- The 40-bit event word (R45). -/
abbrev EventWord := BitVec 40

/-- A channel number as the block holds it: 2 bits (R7). -/
abbrev Chan := Fin 4

/-- A wave index, `0..NUM_WAVES-1` with `NUM_WAVES = 9` (R5, R12, R27). -/
abbrev Wave := Fin 9

/-- The read `r[c]` of a per-channel register (R9). -/
def rd {α : Type} (r : Vector α 4) (c : Chan) : α := r[c.val]

/-- The write `r[c] <- v` of a per-channel register (R9). -/
def wr {α : Type} (r : Vector α 4) (c : Chan) (v : α) : Vector α 4 := r.set c.val v

end Sys2Proof
end

