-- ==== Sys2Proof/Config.lean ====
section
/-! DEFINITION. The configuration record `Cfg` (spec 00_scope R5), the ROM it holds (20_memory R30, R31) and the
free values of the model (log 3, log 4). -/

namespace Sys2Proof

/-- The waveforms of the library, in the order of R30's table. -/
inductive Waveform where
  | sine | ramp | sawtooth | triangle | pulseA | pulseB | pulseC | square | noise
  deriving DecidableEq, Repr

/-- `N`, the channel count: 2 or 4 (R5). -/
inductive ChannelCount where
  | two
  | four
  deriving DecidableEq, Repr

/-- `N` as a number. -/
def ChannelCount.count : ChannelCount → Nat
  | .two => 2
  | .four => 4

/-- The channels `0..N-1`, in the order every tick serves them (R60, R73). -/
def ChannelCount.channels : ChannelCount → List Chan
  | .two => [0, 1]
  | .four => [0, 1, 2, 3]

/-- The number of the last channel, `N-1` (R66). -/
def ChannelCount.last : ChannelCount → Chan
  | .two => 1
  | .four => 3

/-- The wavetable ROM as plain data: the listed bytes at their addresses (R31, log 3). -/
abbrev Memory := List Host.Cell

/-- The size of the ROM: nine tables of 256 bytes (R30). -/
def romSize : Nat := 2304

/-- FREE VALUE (log 3): what a ROM byte that `Cfg` does not list reads as. The spec leaves the wavetables' contents
open (N1, D9), so nothing in the model knows it. -/
opaque Config.romByte : Nat → Byte

/-- FREE VALUE (log 4): the latch `offset_q` between ticks, "unspecified" (R20). -/
opaque Config.freeOffset : Nat → Byte

/-- FREE VALUE (log 4): the latch `sample_q` between ticks (R20). -/
opaque Config.freeSample : Nat → Byte

/-- FREE VALUE (log 4): the latch `out_q` between ticks (R20). -/
opaque Config.freeOut : Nat → Byte

/-- The configuration record of R5. Entries of a vector at a place `>= N` belong to no channel. -/
structure Cfg where
  /-- `N` -/
  n : ChannelCount
  /-- `ROM` -/
  rom : Memory
  /-- `TICK_DIV` -/
  tickDiv : Nat
  /-- `SLOW_DIV` -/
  slowDiv : Nat
  /-- `TICK_RATE`, hertz -/
  tickRate : Rat
  /-- `MIN_FREQ`, hertz -/
  minFreq : Vector Rat 4
  /-- `MAX_FREQ`, hertz -/
  maxFreq : Vector Rat 4
  /-- `DEPTH_EN` -/
  depthEn : Vector Bool 4
  /-- `SYNC_EN` -/
  syncEn : Vector Bool 4
  /-- `NUM_TRIG`, 0 to 4 -/
  numTrig : Fin 5
  /-- `SYNC_SRC` -/
  syncSrc : Vector (Fin 4) 4
  /-- `SYNC_POL`: true is rising, false is falling -/
  syncPol : Vector Bool 4
  deriving DecidableEq, Repr

/-- The one canonical form of the ROM's data: addresses strictly rising and below `romSize`, and no entry equal to
what its address would read as unlisted (R30, R31, log 3). -/
abbrev Memory.wf (m : Memory) : Prop :=
  (m.map Prod.fst).Pairwise (· < ·) ∧ ∀ p ∈ m, p.1 < romSize ∧ p.2 ≠ Config.romByte p.1

/-- The preset `QUAD` of R6. -/
abbrev Cfg.IsQuad (k : Cfg) : Prop := k.n = .four ∧ ∀ c : Chan, rd k.depthEn c = false

/-- The preset `DUAL` of R6. -/
abbrev Cfg.IsDual (k : Cfg) : Prop := k.n = .two ∧ ∀ c ∈ k.n.channels, rd k.depthEn c = true

end Sys2Proof
end

