-- ==== Sys2Proof/Syntax.lean ====
section
/-! DEFINITION. The operations of spec 30_encoding R48, the reasons a command word is illegal (60_exceptions R105)
and the events the environment presents (10_state R23, 30_encoding R50, R51). -/

namespace Sys2Proof

/-- The seven operations, one constructor per row of the opcode table, with the operands of R46 and R47 at their
encoded widths. -/
inductive Instr where
  /-- `NOP` (R81). -/
  | nop
  /-- `SETTW c, imm32` (R82). -/
  | settw (c : BitVec 4) (imm : BitVec 32)
  /-- `SETFRQ c, reading` (R84). -/
  | setfrq (c : BitVec 4) (reading : BitVec 10)
  /-- `WAVSW c, changed, pressed` (R86). -/
  | wavsw (c : BitVec 4) (changed pressed : Bool)
  /-- `SETDEP c, dval` (R88). -/
  | setdep (c : BitVec 4) (dval : BitVec 11)
  /-- `TICK` (R60). -/
  | tick
  /-- `SYNCSMP levels`: bit `t` is the level of trigger input `t` (R95). -/
  | syncsmp (levels : BitVec 4)
  deriving DecidableEq, Repr

/-- Why a command word is illegal (R105). -/
inductive IllReason where
  | illOp
  | illPort
  | illRsvd
  | illCh
  | illDepthAbsent
  | illDepthRange
  deriving DecidableEq, Repr

/-- The two operations that exist in a trace only (R51). -/
inductive PortEvent where
  | tick
  | syncsmp
  deriving DecidableEq, Repr

/-- The input pins at one rising edge of `clk` (R23); `trig` bit `t` is the pin `trig[t]`. -/
structure Pins where
  rst : Bool
  tickStb : Bool
  cmdValid : Bool
  cmdWord : EventWord
  trig : BitVec 4
  deriving DecidableEq, Repr

/-- What the environment presents next. -/
inductive Event where
  /-- One word of a trace (R51). -/
  | word (w : EventWord)
  /-- One word on the command port `cmd_word` (R50). -/
  | command (w : EventWord)
  /-- `RESET` (R120). -/
  | reset
  /-- One clock cycle with these input pins (R23). -/
  | clock (p : Pins)
  deriving DecidableEq, Repr

end Sys2Proof
end

