-- ==== Sys2Proof/Decode.lean ====
section
/-! DEFINITION. Decoding and encoding the event word: spec 30_encoding R45 to R57, 60_exceptions R105. -/

namespace Sys2Proof

/-- The field `op` (R45). -/
def opOf (w : EventWord) : BitVec 4 := w.extractLsb' 36 4

/-- The field `ch` (R45). -/
def chOf (w : EventWord) : BitVec 4 := w.extractLsb' 32 4

/-- The field `data` (R45). -/
def dataOf (w : EventWord) : BitVec 32 := w.extractLsb' 0 32

/-- A row of the opcode map: a word has the row's shape when `w & mask = pattern` (R48). -/
structure Row where
  mnemonic : String
  pattern : EventWord
  mask : EventWord
  deriving DecidableEq, Repr

/-- The word has the row's shape (R48). -/
def Row.fits (r : Row) (w : EventWord) : Bool := (w &&& r.mask) == r.pattern

def rowNop : Row := ⟨"NOP", 0x0000000000, 0xFFFFFFFFFF⟩
def rowSettw : Row := ⟨"SETTW", 0x1000000000, 0xF000000000⟩
def rowSetfrq : Row := ⟨"SETFRQ", 0x2000000000, 0xF0FFFFFC00⟩
def rowWavsw : Row := ⟨"WAVSW", 0x3000000000, 0xF0FFFFFFFC⟩
def rowSetdep : Row := ⟨"SETDEP", 0x4000000000, 0xF0FFFFF800⟩
def rowTick : Row := ⟨"TICK", 0x8000000000, 0xFFFFFFFFFF⟩
def rowSyncsmp : Row := ⟨"SYNCSMP", 0x9000000000, 0xFFFFFFFFF0⟩

/-- The opcode map (R48). -/
def opcodeTable : List Row :=
  [rowNop, rowSettw, rowSetfrq, rowWavsw, rowSetdep, rowTick, rowSyncsmp]

/-- Opcodes 0x5, 0x6, 0x7 and 0xA to 0xF are reserved (R48, R54). -/
def reservedOp (op : BitVec 4) : Bool :=
  (5 ≤ op.toNat && op.toNat ≤ 7) || 10 ≤ op.toNat

/-- What a 40-bit word is, before `Cfg` is asked (R48, R51, R52, R54). -/
inductive Shape where
  /-- the word has the shape of this operation's row -/
  | instr (i : Instr)
  /-- a command word of no row, illegal with this reason -/
  | illegal (r : IllReason)
  /-- opcode 0x8 or 0x9 without the exact shape: no hardware event (R51) -/
  | malformed (e : PortEvent)
  deriving DecidableEq, Repr

/-- `reading = data[9:0]` (R47). -/
def readingOf (w : EventWord) : BitVec 10 := (dataOf w).extractLsb' 0 10

/-- `changed = data[1]` (R47). -/
def changedOf (w : EventWord) : Bool := (dataOf w).getLsbD 1

/-- `pressed = data[0]` (R47). -/
def pressedOf (w : EventWord) : Bool := (dataOf w).getLsbD 0

/-- `dval = data[10:0]` (R47). -/
def dvalOf (w : EventWord) : BitVec 11 := (dataOf w).extractLsb' 0 11

/-- `levels`, the four low bits of `data` (R46, R47). -/
def levelsOf (w : EventWord) : BitVec 4 := (dataOf w).extractLsb' 0 4

/-- The operation of the word's row of R48; a word of no row is sorted by R51, R52 and R54. -/
def decodeShape (w : EventWord) : Shape :=
  if rowNop.fits w then .instr .nop
  else if rowSettw.fits w then .instr (.settw (chOf w) (dataOf w))
  else if rowSetfrq.fits w then .instr (.setfrq (chOf w) (readingOf w))
  else if rowWavsw.fits w then .instr (.wavsw (chOf w) (changedOf w) (pressedOf w))
  else if rowSetdep.fits w then .instr (.setdep (chOf w) (dvalOf w))
  else if rowTick.fits w then .instr .tick
  else if rowSyncsmp.fits w then .instr (.syncsmp (levelsOf w))
  else if reservedOp (opOf w) then .illegal .illOp
  else if opOf w = 8 then .malformed .tick
  else if opOf w = 9 then .malformed .syncsmp
  else .illegal .illRsvd

/-- A word from its fields (R45). -/
def eventWord (op ch : BitVec 4) (data : BitVec 32) : EventWord := op ++ ch ++ data

/-- The word of an instruction: the fields of R45 with the layouts of R46, reserved bits zero (R48, R58). -/
def encode : Instr → EventWord
  | .nop => eventWord 0 0 0
  | .settw c imm => eventWord 1 c imm
  | .setfrq c reading => eventWord 2 c (0#22 ++ reading)
  | .wavsw c changed pressed => eventWord 3 c (0#30 ++ (BitVec.ofBool changed ++ BitVec.ofBool pressed))
  | .setdep c dval => eventWord 4 c (0#21 ++ dval)
  | .tick => eventWord 8 0 0
  | .syncsmp levels => eventWord 9 0 (0#28 ++ levels)

/-- The channel a legal channel field names: its low two bits (R7). -/
def chan (c : BitVec 4) : Chan := ⟨c.toNat % 4, Nat.mod_lt _ (by decide)⟩

/-- The checks of R53 and R55 on a word of the right shape, in the order of R56. -/
def illegal (k : Cfg) : Instr → Option IllReason
  | .nop => none
  | .settw c _ => if k.n.count ≤ c.toNat then some .illCh else none
  | .setfrq c _ => if k.n.count ≤ c.toNat then some .illCh else none
  | .wavsw c _ _ => if k.n.count ≤ c.toNat then some .illCh else none
  | .setdep c dval =>
    if k.n.count ≤ c.toNat then some .illCh
    else if rd k.depthEn (chan c) = false then some .illDepthAbsent
    else if 1024 < dval.toNat then some .illDepthRange
    else none
  | .tick => none
  | .syncsmp _ => none

/-- No level bit stands at a position `>= NUM_TRIG` (R46, R51). -/
def levelsFit (k : Cfg) (levels : BitVec 4) : Bool := levels.toNat < 2 ^ k.numTrig.val

/-- A bit that the format of a command word's opcode reserves is set (R46, R52). -/
def reservedBitsOf (w : EventWord) : Bool :=
  match (opOf w).toNat with
  | 0 => chOf w != 0 || dataOf w != 0
  | 2 => (dataOf w).extractLsb' 10 22 != 0
  | 3 => (dataOf w).extractLsb' 2 30 != 0
  | 4 => (dataOf w).extractLsb' 11 21 != 0
  | _ => false

/-- The command a word with a command opcode and no reserved bit set stands for (R46, R47). -/
def commandOf (w : EventWord) : Instr :=
  match (opOf w).toNat with
  | 1 => .settw (chOf w) (dataOf w)
  | 2 => .setfrq (chOf w) (readingOf w)
  | 3 => .wavsw (chOf w) (changedOf w) (pressedOf w)
  | 4 => .setdep (chOf w) (dvalOf w)
  | _ => .nop

/-- Checks (4) to (6) of R56 on a command: its reason if it is illegal, else the command. -/
def judge (k : Cfg) (i : Instr) : Except IllReason Instr :=
  match illegal k i with
  | some r => .error r
  | none => .ok i

/-- R56's total decoder of the command port, its checks in the order of that rule: (1) reserved opcode, (2) opcode of
a port event, (3) a reserved bit, (4) to (6) the channel and the depth (`judge`). -/
def decode (k : Cfg) (w : EventWord) : Except IllReason Instr :=
  if reservedOp (opOf w) then .error .illOp
  else if opOf w = 8 ∨ opOf w = 9 then .error .illPort
  else if reservedBitsOf w then .error .illRsvd
  else judge k (commandOf w)

/-- The codes of R105's table. -/
def IllReason.code : IllReason → Nat
  | .illOp => 1
  | .illPort => 2
  | .illRsvd => 3
  | .illCh => 4
  | .illDepthAbsent => 5
  | .illDepthRange => 6

/-- The instruction the decoder reads from the table's bits `w`: an event word is one 40-bit word (R45, R57). -/
def decodeTableWord (nbits w : Nat) : Option Instr :=
  match decodeShape (BitVec.ofNat 40 (w % 2 ^ nbits)) with
  | .instr i => some i
  | .illegal _ => none
  | .malformed _ => none

end Sys2Proof
end

