-- ==== Sys2Proof/Machine/Operands.lean ====
section
/-! DEFINITION. Operand forms: spec 30_encoding R47, 40_tick R63, 20_memory R30. (The channel field's `chan` and
`illegal` stand in Decode.) -/

namespace Sys2Proof.Machine

/-- The level of trigger input `t` in the operand `levels` (R47, R95). -/
def levelAt (levels : BitVec 4) (t : Fin 4) : Bool := levels.getLsbD t.val

/-- The table offset, bits 31..24 of the accumulator after the add (R63). -/
def offsetOf (a : Word) : Byte := a.extractLsb' 24 8

/-- The wave after `w` on a wave-advance event, `(w + 1) mod NUM_WAVES` (R86). -/
def nextWave (w : Wave) : Wave := ⟨(w.val + 1) % 9, Nat.mod_lt _ (by decide)⟩

/-- The waveform a wave index selects (R30's table, D7). -/
def waveform (w : Wave) : Waveform :=
  match w with
  | 0 => .sine
  | 1 => .ramp
  | 2 => .sawtooth
  | 3 => .triangle
  | 4 => .pulseA
  | 5 => .pulseB
  | 6 => .pulseC
  | 7 => .square
  | 8 => .noise

/-- The depth step: `(sample * depth) >> 10` where the channel has depth, else the sample (R65). -/
def scaleSample (enabled : Bool) (sample : Byte) (depth : BitVec 11) : Byte :=
  if enabled then BitVec.ofNat 8 ((sample.toNat * depth.toNat) >>> 10) else sample

end Sys2Proof.Machine
end

