-- ==== Sys2Proof/Machine/State.lean ====
section
/-! DEFINITION. The state of the block (spec 10_state R10 to R20, R27), its outputs (R24), its reset state (R25)
and the ways a step can stop. -/

namespace Sys2Proof.Machine

/-- The phases of the tick FSM (R19). -/
inductive Phase where
  | idle | acc | lookup | scale | write | count
  deriving DecidableEq, Repr

/-- The output record `Out` of an operation, all false unless a rule sets them (00_scope R9). -/
structure Out where
  /-- `cmd_err`: an illegal command word was accepted (R106) -/
  err : Bool := false
  /-- `slow_stb`: this tick wrapped `tick_cnt` (R72) -/
  slowStb : Bool := false
  /-- `cadence`: this tick also wrapped `slow_cnt` (R72) -/
  cadence : Bool := false
  deriving DecidableEq, Repr

/-- The state. The per-channel registers have four places, of which a `Cfg` with `N` channels uses the first `N`
(R27); `freeIdx`, `inbox` and `pos` are the model's own (log 1, log 4). -/
structure State where
  /-- the configuration, a constant of a run (R5, R122) -/
  cfg : Cfg
  /-- `acc[c]` (R10) -/
  acc : Vector Word 4
  /-- `tw[c]` (R11) -/
  tw : Vector Word 4
  /-- `wave_ref[c]` (R12) -/
  waveRef : Vector Wave 4
  /-- `last_wave_index[c]` (R13) -/
  lastWaveIndex : Vector Wave 4
  /-- `depth[c]` (R14) -/
  depth : Vector (BitVec 11) 4
  /-- `sync_last_level[c]` (R15) -/
  syncLastLevel : Vector Bool 4
  /-- `pwm[c]` (R16) -/
  pwm : Vector Byte 4
  /-- `tick_cnt` (R17) -/
  tickCnt : Nat
  /-- `slow_cnt` (R18) -/
  slowCnt : Nat
  /-- `phase` (R19) -/
  phase : Phase
  /-- `ci` (R19) -/
  ci : Chan
  /-- `offset_q` (R20) -/
  offsetQ : Byte
  /-- `sample_q` (R20) -/
  sampleQ : Byte
  /-- `out_q` (R20) -/
  outQ : Byte
  /-- the outputs of the last operation or clock cycle (R26, log 7) -/
  out : Out
  /-- the index of the next free value (log 4) -/
  freeIdx : Nat
  /-- the environment's inputs still to come, the next one first (log 1) -/
  inbox : List Event
  /-- how many of them have been taken (log 1) -/
  pos : Nat
  deriving DecidableEq, Repr

/-- Why the machine stops with a fault: never. "No operation raises a synchronous exception" (R105), and there is no
trap (R109), so the type has no constructor. -/
inductive Fault where
  deriving DecidableEq, Repr

/-- What the model gives no meaning to. -/
inductive Refusal where
  /-- Raised by an arm of exec whose operation has no meaning yet; no arm raises it now. Safe. -/
  | notModelled (mnemonic : String)
  /-- Raised by every step of a state whose `Cfg` is not valid, but for one that takes an ill-formed trace word, which
  raises `illFormedTrace` (DESIGN CHOICE, log 21): "the model refuses to run an invalid `Cfg`" (R8, R119). Safe: the
  spec gives such hardware no behaviour. -/
  | invalidCfg
  /-- Raised by a trace word with opcode 0x8 or 0x9 that is not the exact shape of R48 or has a level bit at a
  position `>= NUM_TRIG`: "the model's decoder refuses it by name and position" (R51, U17). `position` counts from 1.
  Raised whether or not `Cfg` is valid (DESIGN CHOICE, log 21). Safe: such a word describes no hardware event. -/
  | illFormedTrace (name : PortEvent) (position : Nat)
  deriving DecidableEq, Repr

/-- The example `CFG_D` of spec 95_test_vectors section 2, a `DUAL`, with no ROM byte listed. -/
def exampleDual : Cfg where
  n := .two
  rom := []
  tickDiv := 125
  slowDiv := 25
  tickRate := ⟨31372549, 1000, by decide, by decide⟩
  minFreq := #v[⟨1, 10, by decide, by decide⟩, ⟨1, 100, by decide, by decide⟩, 0, 0]
  maxFreq := #v[10, 50, 0, 0]
  depthEn := #v[true, true, false, false]
  syncEn := #v[true, false, false, false]
  numTrig := 1
  syncSrc := #v[0, 0, 0, 0]
  syncPol := #v[true, false, false, false]

/-- The reset state of a `Cfg`: R25's table, the latches at the value log 5 names. -/
def State.resetOf (k : Cfg) : State where
  cfg := k
  acc := #v[0, 0, 0, 0]
  tw := #v[0, 0, 0, 0]
  waveRef := #v[0, 0, 0, 0]
  lastWaveIndex := #v[0, 0, 0, 0]
  depth := #v[1024, 1024, 1024, 1024]
  syncLastLevel := #v[false, false, false, false]
  pwm := #v[0, 0, 0, 0]
  tickCnt := 0
  slowCnt := 0
  phase := .idle
  ci := 0
  offsetQ := 0
  sampleQ := 0
  outQ := 0
  out := {}
  freeIdx := 0
  inbox := []
  pos := 0

/-- The machine right after reset (R25), for the `Cfg` log 2 names. -/
def State.reset : State := State.resetOf exampleDual

end Sys2Proof.Machine
end

