-- ==== Sys2Proof/Machine/Flags.lean ====
section
/-! DEFINITION. The block keeps no flag (spec 10_state R26); what stands here are the outputs of an operation
(00_scope R9), the counters that raise two of them (40_tick R67, R72), and the output ports of a clock cycle
(10_state R24). -/

namespace Sys2Proof.Machine

/-- All outputs low (R9). -/
def outLow : Out := {}

/-- The outputs of a rejected command (R106). -/
def outErr : Out := { err := true }

/-- `tick_cnt` has reached `TICK_DIV` on the incremented value (R67). -/
def tickWraps (k : Cfg) (t : Nat) : Bool := t + 1 == k.tickDiv

/-- `slow_cnt` has reached `SLOW_DIV` on the incremented value (R67). -/
def slowWraps (k : Cfg) (u : Nat) : Bool := u + 1 == k.slowDiv

/-- The next `tick_cnt` (R67). -/
def nextTick (k : Cfg) (t : Nat) : Nat := if tickWraps k t then 0 else t + 1

/-- The next `slow_cnt`, from both counters (R67). -/
def nextSlow (k : Cfg) (t u : Nat) : Nat :=
  if tickWraps k t then if slowWraps k u then 0 else u + 1 else u

/-- The outputs of a tick, from both counters (R72). -/
def tickOut (k : Cfg) (t u : Nat) : Out :=
  { slowStb := tickWraps k t, cadence := tickWraps k t && slowWraps k u }

/-- The output ports of R24. -/
structure Ports where
  pwmOut : List Byte
  tickCntOut : Nat
  slowCntOut : Nat
  slowStb : Bool
  cadence : Bool
  busy : Bool
  cmdReady : Bool
  cmdErr : Bool
  deriving DecidableEq, Repr

/-- The port's decoder finds the command word illegal (R56). -/
def rejects (k : Cfg) (w : EventWord) : Bool :=
  match decode k w with
  | .ok _ => false
  | .error _ => true

/-- `COUNT` runs in the clock cycle with these pins: it wraps no counter in a cycle with `rst` (R69, R120, log 20). -/
def countsIn (p : Pins) (s : State) : Bool := s.phase == .count && !p.rst

/-- `cmd_ready`: `phase = IDLE`, and it "reads 0 during reset" (R24, R120). -/
def cmdReadyIn (p : Pins) (s : State) : Bool := s.phase == .idle && !p.rst

/-- The output ports in the clock cycle that has these input pins and whose registers are `s`. The strobes belong to
this cycle and not to the next: `slow_stb` and `cadence` are high in the `COUNT` cycle that wraps their counter (R24,
R72), `cmd_err` in the cycle that accepts the illegal word (R24, R106). -/
def ports (p : Pins) (s : State) : Ports where
  pwmOut := s.cfg.n.channels.map (rd s.pwm)
  tickCntOut := s.tickCnt
  slowCntOut := s.slowCnt
  slowStb := countsIn p s && (tickOut s.cfg s.tickCnt s.slowCnt).slowStb
  cadence := countsIn p s && (tickOut s.cfg s.tickCnt s.slowCnt).cadence
  busy := s.phase != .idle
  cmdReady := cmdReadyIn p s
  cmdErr := cmdReadyIn p s && p.cmdValid && rejects s.cfg p.cmdWord

end Sys2Proof.Machine
end

