-- ==== Sys2Proof/Machine/Tuning.lean ====
section
/-! DEFINITION. The tuning-word function (spec 41_param R83) and the validity of a `Cfg` (00_scope R8). -/

namespace Sys2Proof.Machine

/-- R83's `freq(c, r)`, an exact rational. -/
def freq (k : Cfg) (c : Chan) (r : Nat) : Rat :=
  rd k.minFreq c + (r / 1023) * (rd k.maxFreq c - rd k.minFreq c)

/-- R83's `X(c, r)`, an exact rational. -/
def tuningX (k : Cfg) (c : Chan) (r : Nat) : Rat :=
  2 ^ 32 * freq k c r / k.tickRate

/-- The numerator `p` of a fraction equal to `X(c, r)`. -/
def tuningNum (k : Cfg) (c : Chan) (r : Nat) : Int :=
  let lo := rd k.minFreq c
  let hi := rd k.maxFreq c
  2 ^ 32 * (1023 * lo.num * hi.den + r * (hi.num * lo.den - lo.num * hi.den)) * k.tickRate.den

/-- The denominator `q` of that fraction, positive when `TICK_RATE` is. -/
def tuningDen (k : Cfg) (c : Chan) : Int :=
  1023 * k.tickRate.num * (rd k.minFreq c).den * (rd k.maxFreq c).den

/-- R83's `TuningWord(c, r) = floor((2p + q) / (2q))` in integers, round half up (D12, log 11). -/
def tuningWord (k : Cfg) (c : Chan) (r : Nat) : Nat :=
  ((2 * tuningNum k c r + tuningDen k c) / (2 * tuningDen k c)).toNat

/-- Item 3 of R8, `0 <= MIN_FREQ[c] <= MAX_FREQ[c]`, cross-multiplied (log 11). -/
def freqBoundsOk (k : Cfg) (c : Chan) : Bool :=
  let lo := rd k.minFreq c
  let hi := rd k.maxFreq c
  decide (0 ≤ lo.num) && decide (lo.num * hi.den ≤ hi.num * lo.den)

/-- Items 3, 4 and 5 of R8 for one channel. -/
def channelOk (k : Cfg) (c : Chan) : Bool :=
  freqBoundsOk k c && decide (tuningWord k c 1023 < 2 ^ 32)
    && (!rd k.syncEn c || decide ((rd k.syncSrc c).val < k.numTrig.val))

/-- `Cfg` is valid (R8). `N`, `NUM_WAVES` and `TABLE_LEN` of item 1 hold by the type. -/
def valid (k : Cfg) : Bool :=
  decide (1 ≤ k.tickDiv) && decide (1 ≤ k.slowDiv) && decide (0 < k.tickRate.num)
    && k.n.channels.all (channelOk k)

/-- The frequency a channel with tuning word `w` produces, `w * TICK_RATE / 2^32` hertz (40_tick R68 law 3). -/
def outputFreq (k : Cfg) (w : Nat) : Rat := w * k.tickRate / 2 ^ 32

end Sys2Proof.Machine
end

