-- ==== Sys2Proof/Machine/Ops.lean ====
section
/-! DEFINITION. The named operations over the registers, the ROM and the compare registers (spec 20_memory R31, R33,
00_scope R9), the rejection of a command (60_exceptions R106) and `RESET` (70_reset R120). The block has no exception
to take and none to return from (60_exceptions R109, R110). -/

namespace Sys2Proof.Machine

/-- `acc[c] <- v`. -/
def State.setAcc (s : State) (c : Chan) (v : Word) : State := { s with acc := wr s.acc c v }

/-- `tw[c] <- v`. -/
def State.setTw (s : State) (c : Chan) (v : Word) : State := { s with tw := wr s.tw c v }

/-- `last_wave_index[c] <- w; wave_ref[c] <- w` (R86). -/
def State.setWave (s : State) (c : Chan) (w : Wave) : State :=
  { s with waveRef := wr s.waveRef c w, lastWaveIndex := wr s.lastWaveIndex c w }

/-- `depth[c] <- d`. -/
def State.setDepth (s : State) (c : Chan) (d : BitVec 11) : State := { s with depth := wr s.depth c d }

/-- `sync_last_level[c] <- l`. -/
def State.setSyncLevel (s : State) (c : Chan) (l : Bool) : State :=
  { s with syncLastLevel := wr s.syncLastLevel c l }

/-- `PwmWrite(c, v)` (R33). -/
def State.pwmWrite (s : State) (c : Chan) (v : Byte) : State := { s with pwm := wr s.pwm c v }

/-- `tick_cnt <- t; slow_cnt <- u`. -/
def State.setCounters (s : State) (t u : Nat) : State := { s with tickCnt := t, slowCnt := u }

/-- `phase <- p; ci <- c` (R9, R19). -/
def State.setFsm (s : State) (p : Phase) (c : Chan) : State := { s with phase := p, ci := c }

/-- `offset_q <- v`. -/
def State.setOffsetQ (s : State) (v : Byte) : State := { s with offsetQ := v }

/-- `sample_q <- v`. -/
def State.setSampleQ (s : State) (v : Byte) : State := { s with sampleQ := v }

/-- `out_q <- v`. -/
def State.setOutQ (s : State) (v : Byte) : State := { s with outQ := v }

/-- The latches at the end of a tick: "their value between ticks is unspecified", so each takes a fresh free value
(R20, U12, log 4). -/
def State.forgetLatches (s : State) : State :=
  { s with
    offsetQ := Config.freeOffset s.freeIdx
    sampleQ := Config.freeSample s.freeIdx
    outQ := Config.freeOut s.freeIdx
    freeIdx := s.freeIdx + 1 }

/-- The outputs of this operation (R9). -/
def State.setOut (s : State) (o : Out) : State := { s with out := o }

/-- One event of the environment has been taken; `rest` is still to come (log 1). -/
def State.take (s : State) (rest : List Event) : State := { s with inbox := rest, pos := s.pos + 1 }

/-- The address of entry `off` of table `w`: `{w, off}` (R31). -/
def romAddr (w : Wave) (off : Byte) : Nat := 256 * w.val + off.toNat

/-- The byte a ROM lists at an address. -/
def listed : Memory → Nat → Option Byte
  | [], _ => none
  | (a, v) :: m, x => if a = x then some v else listed m x

/-- What the ROM reads at an address: the listed byte, else the free value (log 3). -/
def romAt (m : Memory) (a : Nat) : Byte := (listed m a).getD (Config.romByte a)

/-- `RomRead(w, off)` (R31). -/
def romRead (k : Cfg) (w : Wave) (off : Byte) : Byte := romAt k.rom (romAddr w off)

/-- `reject(reason)`: no register changes and `cmd_err` is raised; the reason is visible nowhere (R9, R106). -/
def State.reject (s : State) : State := s.setOut outErr

/-- `RESET`: every register takes its reset value, and the latches, whose reset value is "unspecified", fresh free
values (R120, R25). The configuration and the model's own fields stay (log 12). -/
def State.resetRegs (s : State) : State :=
  { State.resetOf s.cfg with freeIdx := s.freeIdx, inbox := s.inbox, pos := s.pos }.forgetLatches

/-- An operation ends in `t` if the configuration of `s` is valid; else the model refuses to run (R8). -/
def running (s t : State) : Host.Outcome State Fault Refusal :=
  if valid s.cfg then .next t else .refused .invalidCfg

/-- A command: rejected if it is illegal (R53, R55, R80, R106), else its effect `t` with `Out.err = false`. -/
def perform (s : State) (i : Instr) (t : State) : Host.Outcome State Fault Refusal :=
  running s (if (illegal s.cfg i).isSome then s.reject else t.setOut outLow)

end Sys2Proof.Machine
end

