-- ==== Sys2Proof/Machine/Param.lean ====
section
/-! DEFINITION. The parameter-update operations `NOP`, `SETTW`, `SETFRQ`, `WAVSW`, `SETDEP`: spec 41_param. -/

namespace Sys2Proof.Machine

/-- `NOP` (R81). -/
def execNop (s : State) : Host.Outcome State Fault Refusal :=
  perform s .nop s

/-- `SETTW c, imm32`: `tw[c] <- imm32` (R82). -/
def execSettw (c : BitVec 4) (imm : BitVec 32) (s : State) : Host.Outcome State Fault Refusal :=
  perform s (.settw c imm) (s.setTw (chan c) imm)

/-- `SETFRQ c, reading`: `tw[c] <- TuningWord(c, reading)` (R83, R84). -/
def execSetfrq (c : BitVec 4) (reading : BitVec 10) (s : State) : Host.Outcome State Fault Refusal :=
  perform s (.setfrq c reading)
    (s.setTw (chan c) (BitVec.ofNat 32 (tuningWord s.cfg (chan c) reading.toNat)))

/-- The wave registers after `WAVSW`: they advance on a debounced press edge only (R86). -/
def waveSwitch (c : Chan) (changed pressed : Bool) (s : State) : State :=
  if changed && pressed then s.setWave c (nextWave (rd s.lastWaveIndex c)) else s

/-- `WAVSW c, changed, pressed` (R86). -/
def execWavsw (c : BitVec 4) (changed pressed : Bool) (s : State) : Host.Outcome State Fault Refusal :=
  perform s (.wavsw c changed pressed) (waveSwitch (chan c) changed pressed s)

/-- `SETDEP c, dval`: `depth[c] <- dval` (R88). -/
def execSetdep (c : BitVec 4) (dval : BitVec 11) (s : State) : Host.Outcome State Fault Refusal :=
  perform s (.setdep c dval) (s.setDepth (chan c) dval)

end Sys2Proof.Machine
end

