-- ==== Sys2Proof/Machine/Sync.lean ====
section
/-! DEFINITION. `SYNCSMP`, the phase-reset edge detector: spec 42_sync. -/

namespace Sys2Proof.Machine

/-- One sample of the trigger levels for one channel (R95, R96). -/
def syncChannel (levels : BitVec 4) (s : State) (c : Chan) : State :=
  let l := levelAt levels (rd s.cfg.syncSrc c)
  if rd s.cfg.syncEn c && l != rd s.syncLastLevel c then
    if l == rd s.cfg.syncPol c then (s.setSyncLevel c l).setAcc c 0 else s.setSyncLevel c l
  else s

/-- One sample of the trigger levels for every channel (R95). -/
def sampleTriggers (levels : BitVec 4) (s : State) : State :=
  s.cfg.n.channels.foldl (syncChannel levels) s

/-- `SYNCSMP levels` (R95); a level bit at a position `>= NUM_TRIG` makes the trace ill formed (R51, U17),
which is asked before the validity of `Cfg` (DESIGN CHOICE, log 21). -/
def execSyncsmp (levels : BitVec 4) (s : State) : Host.Outcome State Fault Refusal :=
  if levelsFit s.cfg levels then running s ((sampleTriggers levels s).setOut outLow)
  else .refused (.illFormedTrace .syncsmp s.pos)

end Sys2Proof.Machine
end

