-- ==== Sys2Proof/Machine/Tick.lean ====
section
/-! DEFINITION. `TICK` as one operation (spec 40_tick R60) and as the micro-operations of its FSM (R62 to R67, R69). -/

namespace Sys2Proof.Machine

/-- The five steps of R60 for one channel. -/
def tickChannel (s : State) (c : Chan) : State :=
  let a := rd s.acc c + rd s.tw c
  let sample := romRead s.cfg (rd s.waveRef c) (offsetOf a)
  (s.setAcc c a).pwmWrite c (scaleSample (rd s.cfg.depthEn c) sample (rd s.depth c))

/-- The counters and outputs at the end of a tick (R67, R72). -/
def countTick (s : State) : State :=
  (s.setCounters (nextTick s.cfg s.tickCnt) (nextSlow s.cfg s.tickCnt s.slowCnt)).setOut
    (tickOut s.cfg s.tickCnt s.slowCnt)

/-- R60: every channel in order, then the counters; the latches are left unspecified (R20, log 4). -/
def tickAll (s : State) : State :=
  (countTick (s.cfg.n.channels.foldl tickChannel s)).forgetLatches

/-- `TICK` (R60). -/
def execTick (s : State) : Host.Outcome State Fault Refusal :=
  running s (tickAll s)

/-- `ACC` (R62). -/
def microAcc (s : State) : State :=
  let a := rd s.acc s.ci + rd s.tw s.ci
  ((s.setAcc s.ci a).setOffsetQ (offsetOf a)).setFsm .lookup s.ci

/-- `LOOKUP` (R64). -/
def microLookup (s : State) : State :=
  (s.setSampleQ (romRead s.cfg (rd s.waveRef s.ci) s.offsetQ)).setFsm .scale s.ci

/-- `SCALE`, passed through also where the channel has no depth (R65, R69). -/
def microScale (s : State) : State :=
  (s.setOutQ (scaleSample (rd s.cfg.depthEn s.ci) s.sampleQ (rd s.depth s.ci))).setFsm .write s.ci

/-- `WRITE` (R66). -/
def microWrite (s : State) : State :=
  if s.ci = s.cfg.n.last then (s.pwmWrite s.ci s.outQ).setFsm .count s.ci
  else (s.pwmWrite s.ci s.outQ).setFsm .acc (s.ci + 1)

/-- `COUNT` (R67). -/
def microCount (s : State) : State :=
  (countTick s).forgetLatches.setFsm .idle 0

/-- One clock cycle of the tick FSM (R69); in `IDLE` without a strobe it stays. The outputs are low in every cycle but
`COUNT` (R24). -/
def microStep (s : State) : State :=
  match s.phase with
  | .idle => s.setOut outLow
  | .acc => microAcc (s.setOut outLow)
  | .lookup => microLookup (s.setOut outLow)
  | .scale => microScale (s.setOut outLow)
  | .write => microWrite (s.setOut outLow)
  | .count => microCount (s.setOut outLow)

/-- An accepted tick strobe: `phase <- ACC, ci <- 0` (R19, R69). -/
def acceptStrobe (s : State) : State := s.setFsm .acc 0

/-- `k` cycles of the FSM. -/
def microSteps : Nat → State → State
  | 0, s => s
  | k + 1, s => microSteps k (microStep s)

/-- The busy time of one tick, `4N + 1` cycles (R69, R130). -/
def busyCycles (k : Cfg) : Nat := 4 * k.n.count + 1

end Sys2Proof.Machine
end

