-- ==== Sys2Proof/Machine/Dispatch.lean ====
section
/-! DEFINITION. The meaning of every operation of spec 30_encoding R48. -/

namespace Sys2Proof.Machine

def exec (i : Instr) (s : State) : Host.Outcome State Fault Refusal :=
  match i with
  | .nop => Sys2Proof.Machine.execNop s
  | .settw c imm => Sys2Proof.Machine.execSettw c imm s
  | .setfrq c reading => Sys2Proof.Machine.execSetfrq c reading s
  | .wavsw c changed pressed => Sys2Proof.Machine.execWavsw c changed pressed s
  | .setdep c dval => Sys2Proof.Machine.execSetdep c dval s
  | .tick => Sys2Proof.Machine.execTick s
  | .syncsmp levels => Sys2Proof.Machine.execSyncsmp levels s

end Sys2Proof.Machine
end

