-- ==== Sys2Proof/Machine/Events.lean ====
section
/-! DEFINITION. What the environment's events do: trace words (spec 30_encoding R51), the command port (R50, R56),
`RESET` (70_reset R120), and one clock cycle with its arbiter (20_memory R36, R40; 60_exceptions R108). -/

namespace Sys2Proof.Machine

/-- One word of a trace, taken in `IDLE` (R51). DESIGN CHOICE (log 21): an ill-formed word is refused as such before the
validity of `Cfg` is asked. -/
def runWord (w : EventWord) (s : State) : Host.Outcome State Fault Refusal :=
  match decodeShape w with
  | .instr i => exec i s
  | .illegal _ => running s s.reject
  | .malformed e => .refused (.illFormedTrace e s.pos)

/-- One word on the command port, transferred in `IDLE` (R50, R56, R80). -/
def runCommand (w : EventWord) (s : State) : Host.Outcome State Fault Refusal :=
  match decode s.cfg w with
  | .ok i => exec i s
  | .error _ => running s s.reject

/-- The command port in an `IDLE` cycle: a transfer if `cmd_valid` (R50). -/
def portCycle (p : Pins) (s : State) : Host.Outcome State Fault Refusal :=
  if p.cmdValid then runCommand p.cmdWord s else running s (s.setOut outLow)

/-- The trigger sample and the tick strobe of an `IDLE` cycle, after its command (R40, R99, R70). -/
def endIdleCycle (p : Pins) (s : State) : State :=
  if p.tickStb then acceptStrobe (sampleTriggers p.trig s) else sampleTriggers p.trig s

/-- One rising edge of `clk`: `rst` overrides everything; in `IDLE` the command and the sample are performed and the
strobe is accepted; in a busy cycle the FSM moves and nothing from outside is taken (R36, R40, R70, R99, R108). -/
def clockCycle (p : Pins) (s : State) : Host.Outcome State Fault Refusal :=
  if p.rst then running s s.resetRegs
  else if s.phase = .idle then
    match portCycle p s with
    | .next t => .next (endIdleCycle p t)
    | .fault r => .fault r
    | .refused r => .refused r
  else running s (microStep s)

/-- An operation of the environment is performed in `IDLE`; while the FSM is busy it waits, and the FSM moves by one
cycle (R36, R128, log 8). -/
def whenIdle (s : State) (taken : Host.Outcome State Fault Refusal) : Host.Outcome State Fault Refusal :=
  if s.phase = .idle then taken else running s (microStep s)

/-- The next event of the environment. With none to come, the FSM moves by one cycle or stays in `IDLE` (log 8). -/
def nextEvent (s : State) : Host.Outcome State Fault Refusal :=
  match s.inbox with
  | [] => running s (microStep s)
  | .word w :: rest => whenIdle s (runWord w (s.take rest))
  | .command w :: rest => whenIdle s (runCommand w (s.take rest))
  | .reset :: rest => running s (s.take rest).resetRegs
  | .clock p :: rest => clockCycle p (s.take rest)

/-- The state with `e` as the environment's next event and the FSM in `IDLE`, where it is taken. -/
def State.withEvent (s : State) (e : Event) : State :=
  { s with inbox := e :: s.inbox, phase := .idle, ci := 0 }

/-- The state with a trace to run (R51). -/
def State.withTrace (s : State) (ws : List EventWord) : State := { s with inbox := ws.map .word }

/-- The operations of a list in order, stopping at the first that does not answer a next state. -/
def execAll : List Instr → State → Host.Outcome State Fault Refusal
  | [], s => .next s
  | i :: is, s =>
    match exec i s with
    | .next t => execAll is t
    | .fault r => .fault r
    | .refused r => .refused r

end Sys2Proof.Machine
end

