-- ==== Sys2Proof/Machine/Step.lean ====
section
/-! DEFINITION. One step of the machine: the environment's next event. -/

namespace Sys2Proof.Machine

/-- One step: the next event of the environment (20_memory R38). -/
def step (s : State) : Host.Outcome State Fault Refusal := nextEvent s

/-- The state whose next step runs the operation with the table's bits `w`, as one trace word (30_encoding R51,
log 1). -/
def State.withFetchWord (s : State) (nbits w : Nat) : State :=
  s.withEvent (.word (BitVec.ofNat 40 (w % 2 ^ nbits)))

end Sys2Proof.Machine
end

