-- ==== Sys2Proof/Machine/Assembly.lean ====
section
/-! DEFINITION. The assembly syntax of traces and its pseudo-operations (spec 30_encoding R58, R59), and the command
sequences of a control pass (41_param R89) and of start-up (70_reset R123). -/

namespace Sys2Proof.Machine

/-- One line of a trace: an operation (R58) or a pseudo-operation (R59). -/
inductive AsmLine where
  | instr (i : Instr)
  | ticks (k : Nat)
  | wavadv (c : BitVec 4)
  | word (w : EventWord)
  deriving DecidableEq, Repr

/-- The words a line stands for (R58, R59). -/
def AsmLine.words : AsmLine → List EventWord
  | .instr i => [encode i]
  | .ticks k => List.replicate k (encode .tick)
  | .wavadv c => [encode (.wavsw c true true)]
  | .word w => [w]

/-- A trace as words, in order (R51, R58). -/
def assemble (ls : List AsmLine) : List EventWord := ls.flatMap AsmLine.words

/-- The value of a digit, decimal or hexadecimal. -/
def digit (c : Char) : Option Nat :=
  if '0' ≤ c ∧ c ≤ '9' then some (c.toNat - '0'.toNat)
  else if 'a' ≤ c ∧ c ≤ 'f' then some (c.toNat - 'a'.toNat + 10)
  else if 'A' ≤ c ∧ c ≤ 'F' then some (c.toNat - 'A'.toNat + 10)
  else none

/-- Digits in a base, most significant first; underscores only group (00_scope R9). DESIGN CHOICE (log 19): an
underscore is passed over wherever it stands after a number's `0x` or `0b`, also where it groups no digits, so `_` and
`0x_` read as 0. -/
def digits (base : Nat) (acc : Nat) : List Char → Option Nat
  | [] => some acc
  | '_' :: cs => digits base acc cs
  | c :: cs =>
    match digit c with
    | some d => if d < base then digits base (base * acc + d) cs else none
    | none => none

/-- A number: `0x` hexadecimal, `0b` binary, else decimal (R58). -/
def number : List Char → Option Nat
  | [] => none
  | '0' :: 'x' :: c :: cs => digits 16 0 (c :: cs)
  | '0' :: 'b' :: c :: cs => digits 2 0 (c :: cs)
  | c :: cs => digits 10 0 (c :: cs)

/-- A number that fits a field of `w` bits: "The assembler does not check ranges beyond field widths" (R58). -/
def field (w : Nat) (cs : List Char) : Option (BitVec w) :=
  match number cs with
  | some v => if v < 2 ^ w then some (BitVec.ofNat w v) else none
  | none => none

/-- A one-bit operand. -/
def flag (cs : List Char) : Option Bool := (field 1 cs).map (· == 1)

/-- The pieces of a text between commas. -/
def pieces (cs : List Char) : List (List Char) :=
  cs.foldr (fun c acc =>
    if c = ',' then [] :: acc
    else
      match acc with
      | [] => [[c]]
      | p :: ps => (c :: p) :: ps) [[]]

/-- A text without its spaces. -/
def squeeze (cs : List Char) : List Char := cs.filter (· != ' ')

/-- The operation a mnemonic and its operands stand for (R58, R59). -/
def operation (m : List Char) (ops : List (List Char)) : Option AsmLine :=
  match ops with
  | [] =>
    if m = "NOP".toList then some (.instr .nop)
    else if m = "TICK".toList then some (.instr .tick)
    else none
  | [a] =>
    if m = "SYNCSMP".toList then (field 4 a).map fun l => .instr (.syncsmp l)
    else if m = "TICKS".toList then (number a).map .ticks
    else if m = "WAVADV".toList then (field 4 a).map .wavadv
    else if m = "WORD".toList then (field 40 a).map .word
    else none
  | [a, b] =>
    (field 4 a).bind fun c =>
      if m = "SETTW".toList then (field 32 b).map fun v => .instr (.settw c v)
      else if m = "SETFRQ".toList then (field 10 b).map fun v => .instr (.setfrq c v)
      else if m = "SETDEP".toList then (field 11 b).map fun v => .instr (.setdep c v)
      else none
  | [a, b, d] =>
    if m = "WAVSW".toList then
      (field 4 a).bind fun c => (flag b).bind fun g => (flag d).map fun p => .instr (.wavsw c g p)
    else none
  | _ => none

/-- One line of text: `#` to the end of line is a comment, the mnemonic stands before the first space (R58). A line
that holds nothing stands for no operation; `none` is a line that is not in the syntax. -/
def parseLine (cs : List Char) : Option (List AsmLine) :=
  let body := (cs.takeWhile (· != '#')).dropWhile (· == ' ')
  let m := body.takeWhile (· != ' ')
  let rest := squeeze (body.dropWhile (· != ' '))
  if m = [] then some []
  else (operation m (if rest = [] then [] else pieces rest)).map fun l => [l]

/-- The text of an operation (R58); levels in binary, trigger input 0 rightmost. -/
def instrText : Instr → String
  | .nop => "NOP"
  | .settw c imm => "SETTW " ++ Nat.repr c.toNat ++ ", " ++ Nat.repr imm.toNat
  | .setfrq c r => "SETFRQ " ++ Nat.repr c.toNat ++ ", " ++ Nat.repr r.toNat
  | .wavsw c g p =>
    "WAVSW " ++ Nat.repr c.toNat ++ ", " ++ Nat.repr g.toNat ++ ", " ++ Nat.repr p.toNat
  | .setdep c d => "SETDEP " ++ Nat.repr c.toNat ++ ", " ++ Nat.repr d.toNat
  | .tick => "TICK"
  | .syncsmp l =>
    "SYNCSMP 0b" ++ Nat.repr (l.getLsbD 3).toNat ++ Nat.repr (l.getLsbD 2).toNat
      ++ Nat.repr (l.getLsbD 1).toNat ++ Nat.repr (l.getLsbD 0).toNat

/-- What the control side has read for one channel: the switch, the frequency control and the depth (R89). -/
structure Reading where
  changed : Bool
  pressed : Bool
  reading : BitVec 10
  dval : BitVec 11
  deriving DecidableEq, Repr

/-- The channel field of a command for a channel of the block (R45). -/
def chanField (c : Chan) : BitVec 4 := BitVec.ofNat 4 c.val

/-- `SETDEP` for a channel that has depth, else nothing. -/
def depthCommand (k : Cfg) (c : Chan) (d : BitVec 11) : List Instr :=
  if rd k.depthEn c then [.setdep (chanField c) d] else []

/-- One control pass after a `cadence`: for `c = 0..N-1`, `WAVSW`, `SETFRQ` and, with depth, `SETDEP` (R89). -/
def controlPass (k : Cfg) (r : Vector Reading 4) : List Instr :=
  k.n.channels.flatMap fun c =>
    [.wavsw (chanField c) (rd r c).changed (rd r c).pressed, .setfrq (chanField c) (rd r c).reading]
      ++ depthCommand k c (rd r c).dval

/-- What the control side issues after reset: `SETFRQ` for each channel, then `SETDEP` for each with depth (items 1
and 2 of R123). -/
def startUp (k : Cfg) (r : Vector Reading 4) : List Instr :=
  (k.n.channels.map fun c => .setfrq (chanField c) (rd r c).reading)
    ++ k.n.channels.flatMap fun c => depthCommand k c (rd r c).dval

end Sys2Proof.Machine
end

