-- ==== Sys2Proof/Safety.lean ====
section
/-! DEFINITION. The terms claims are stated in: the invariant of spec 10_state R22, what "the same registers" means,
and a run in which no illegal command was issued (60_exceptions R106). -/

namespace Sys2Proof.Machine

/-- The invariant of R22, with the configuration valid (R8) and `ci` the number of a channel, 0 in `IDLE` (R19). Items
1 and the ranges of item 2 hold by the types. -/
structure Invariant (s : State) : Prop where
  cfgValid : valid s.cfg = true
  waves : ∀ c, rd s.waveRef c = rd s.lastWaveIndex c
  depths : ∀ c, (rd s.depth c).toNat ≤ 1024
  tickRange : s.tickCnt < s.cfg.tickDiv
  slowRange : s.slowCnt < s.cfg.slowDiv
  served : s.ci ∈ s.cfg.n.channels
  idleCi : s.phase = .idle → s.ci = 0

/-- The parameter registers, which commands write (R21). -/
def SameParams (s t : State) : Prop :=
  t.tw = s.tw ∧ t.waveRef = s.waveRef ∧ t.lastWaveIndex = s.lastWaveIndex ∧ t.depth = s.depth

/-- The counters and the compare registers, which `TICK` alone writes (R21). -/
def SameOutputs (s t : State) : Prop :=
  t.pwm = s.pwm ∧ t.tickCnt = s.tickCnt ∧ t.slowCnt = s.slowCnt

/-- The configuration and every ROM byte, which nothing writes (R42, R122). -/
def SameConfig (s t : State) : Prop :=
  t.cfg = s.cfg ∧ ∀ a, romAt t.cfg.rom a = romAt s.cfg.rom a

/-- The sequencing state (R19) and the environment's events still to come. -/
def SameControl (s t : State) : Prop :=
  t.phase = s.phase ∧ t.ci = s.ci ∧ t.inbox = s.inbox ∧ t.pos = s.pos

/-- The FSM's latches (R20). -/
def SameLatches (s t : State) : Prop :=
  t.offsetQ = s.offsetQ ∧ t.sampleQ = s.sampleQ ∧ t.outQ = s.outQ ∧ t.freeIdx = s.freeIdx

/-- Everything no command writes (R80): the accumulators, the sync levels, and what stands above. -/
def CommandFrame (s t : State) : Prop :=
  t.acc = s.acc ∧ t.syncLastLevel = s.syncLastLevel ∧ SameOutputs s t ∧ SameConfig s t ∧ SameControl s t
    ∧ SameLatches s t

/-- All of the state but the outputs of the last operation. -/
def SameRegs (s t : State) : Prop := SameParams s t ∧ CommandFrame s t

/-- A safe run step: no illegal command was issued (R106: "must ask for `err = false` on every step"). -/
def NoIllegalCommand (s : State) : Prop := s.out.err = false

/-- Channel `c` has the same registers in both states. -/
def SameChannel (c : Chan) (s t : State) : Prop :=
  rd t.acc c = rd s.acc c ∧ rd t.tw c = rd s.tw c ∧ rd t.waveRef c = rd s.waveRef c
    ∧ rd t.lastWaveIndex c = rd s.lastWaveIndex c ∧ rd t.depth c = rd s.depth c
    ∧ rd t.syncLastLevel c = rd s.syncLastLevel c ∧ rd t.pwm c = rd s.pwm c

/-- The instruction is a command of the control side (R115). -/
def IsCommand (i : Instr) : Prop := i ≠ .tick ∧ ∀ l, i ≠ .syncsmp l

/-- The channel field of a command that has one (R46). -/
def channelField : Instr → Option (BitVec 4)
  | .settw c _ => some c
  | .setfrq c _ => some c
  | .wavsw c _ _ => some c
  | .setdep c _ => some c
  | _ => none

/-- How many `TICK`s a list of operations holds. -/
def ticksOf (is : List Instr) : Nat := is.count .tick

/-- A sample of these levels is an active edge for channel `c` (R96). -/
def ActiveEdge (s : State) (levels : BitVec 4) (c : Chan) : Prop :=
  rd s.cfg.syncEn c = true ∧ levelAt levels (rd s.cfg.syncSrc c) ≠ rd s.syncLastLevel c
    ∧ levelAt levels (rd s.cfg.syncSrc c) = rd s.cfg.syncPol c

/-- The operation leaves the phase of channel `c` to its ticks: no active edge and no new tuning word for `c` (R68
law 1). -/
def KeepsSlope (c : Chan) (s : State) : Instr → Prop
  | .settw d _ => d.toNat ≠ c.val
  | .setfrq d _ => d.toNat ≠ c.val
  | .syncsmp levels => levelsFit s.cfg levels = true ∧ ¬ ActiveEdge s levels c
  | _ => True

/-- Every operation of a list leaves the phase of channel `c` to its ticks, each in the state it meets. -/
def AllKeepSlope (c : Chan) : List Instr → State → Prop
  | [], _ => True
  | i :: is, s => KeepsSlope c s i ∧ ∀ t, exec i s = .next t → AllKeepSlope c is t

/-- Every register has its value of R25, in a state with this configuration. -/
def AtReset (k : Cfg) (t : State) : Prop :=
  t.cfg = k ∧ t.tickCnt = 0 ∧ t.slowCnt = 0 ∧ t.phase = .idle ∧ t.ci = 0
    ∧ ∀ c : Chan, c.val < k.n.count →
      rd t.acc c = 0 ∧ rd t.tw c = 0 ∧ rd t.waveRef c = 0 ∧ rd t.lastWaveIndex c = 0
        ∧ (rd k.depthEn c = true → rd t.depth c = 1024)
        ∧ (rd k.syncEn c = true → rd t.syncLastLevel c = false) ∧ rd t.pwm c = 0

/-- What one sample of the trigger pins does to the registers (R95, R96). -/
def Sampled (levels : BitVec 4) (s t : State) : Prop :=
  (∀ c : Chan, c.val < s.cfg.n.count → rd s.cfg.syncEn c = true →
      rd t.syncLastLevel c = levelAt levels (rd s.cfg.syncSrc c)
        ∧ (ActiveEdge s levels c → rd t.acc c = 0) ∧ (¬ ActiveEdge s levels c → rd t.acc c = rd s.acc c))
    ∧ (∀ c : Chan, s.cfg.n.count ≤ c.val ∨ rd s.cfg.syncEn c = false →
      rd t.syncLastLevel c = rd s.syncLastLevel c ∧ rd t.acc c = rd s.acc c)
    ∧ SameParams s t ∧ SameOutputs s t ∧ SameConfig s t ∧ SameLatches s t

end Sys2Proof.Machine
end

