-- ==== Sys2Proof/WellFormed.lean ====
section
/-! DEFINITION. Which instructions are well formed: spec 30_encoding R46, R51, R53, R55. -/

namespace Sys2Proof

/-- An instruction is well formed for a `Cfg` when its operands have the values the spec calls legal: a channel below
`N` (R53), a depth register that exists and a depth of at most 1024 (R55), no level above `NUM_TRIG` (R51). -/
def Instr.wf (k : Cfg) : Instr → Bool
  | .nop => true
  | .settw c _ => c.toNat < k.n.count
  | .setfrq c _ => c.toNat < k.n.count
  | .wavsw c _ _ => c.toNat < k.n.count
  | .setdep c dval => c.toNat < k.n.count && rd k.depthEn (chan c) && dval.toNat ≤ 1024
  | .tick => true
  | .syncsmp levels => levelsFit k levels

end Sys2Proof
end

