-- ==== Sys2Proof/Certificates/Slice0/Obligations.lean ====
section
/-! DEFINITION. The statements for the provers, by the files of the spec. -/

open Sys2Proof Sys2Proof.Machine

/-! Encoding (30_encoding). -/

/-- R48: words written out from the opcode map's layouts, one per row and two of no row, decode as the map says. -/
def Obligations.SpecWordsDecodeAsTheOpcodeMapSays : Prop :=
  decodeShape 0x0000000000 = .instr .nop
    ∧ decodeShape 0x1201000000 = .instr (.settw 2 0x01000000)
    ∧ decodeShape 0x20000003FF = .instr (.setfrq 0 1023)
    ∧ decodeShape 0x3100000002 = .instr (.wavsw 1 true false)
    ∧ decodeShape 0x41000002BC = .instr (.setdep 1 700)
    ∧ decodeShape 0x8000000000 = .instr .tick
    ∧ decodeShape 0x9000000002 = .instr (.syncsmp 2)
    ∧ decodeShape 0x5000000000 = .illegal .illOp
    ∧ decodeShape 0x8000000001 = .malformed .tick

/-- R46, R47, R48: decoding an encoded instruction gives it back, at every value of every operand. -/
def Obligations.DecodeOfEncodeGivesTheInstructionBack : Prop :=
  ∀ i : Instr, decodeShape (encode i) = .instr i

/-- R48, R52: a word that decodes to an instruction is the one word that encodes it. -/
def Obligations.EveryInstructionHasOneWord : Prop :=
  ∀ (w : EventWord) (i : Instr), decodeShape w = .instr i → encode i = w

/-- R48: no word has the shape of two rows. -/
def Obligations.OpcodeRowsNeverOverlap : Prop :=
  opcodeTable.Pairwise fun r q => ∀ w : EventWord, r.fits w = true → q.fits w = false

/-- R49: `NOP` is the all-zero word and only that word. -/
def Obligations.NopIsTheZeroWordOnly : Prop :=
  ∀ w : EventWord, decodeShape w = .instr .nop ↔ w = 0

/-- R58, R59: a trace assembles line by line, an operation's line to the number of R58's table, a pseudo-operation's
line to its expansion. -/
def Obligations.AssembledWordsAreTheTablesNumbers : Prop :=
  (∀ c imm, (encode (.settw c imm)).toNat = 1 * 2 ^ 36 + c.toNat * 2 ^ 32 + imm.toNat)
    ∧ (∀ c r, (encode (.setfrq c r)).toNat = 2 * 2 ^ 36 + c.toNat * 2 ^ 32 + r.toNat)
    ∧ (∀ c g p, (encode (.wavsw c g p)).toNat = 3 * 2 ^ 36 + c.toNat * 2 ^ 32 + g.toNat * 2 + p.toNat)
    ∧ (∀ c d, (encode (.setdep c d)).toNat = 4 * 2 ^ 36 + c.toNat * 2 ^ 32 + d.toNat)
    ∧ (∀ l, (encode (.syncsmp l)).toNat = 9 * 2 ^ 36 + l.toNat)
    ∧ (encode .nop).toNat = 0 ∧ (encode .tick).toNat = 0x8000000000
    ∧ assemble [] = [] ∧ (∀ i ls, assemble (.instr i :: ls) = encode i :: assemble ls)
    ∧ (∀ k ls, assemble (.ticks k :: ls) = List.replicate k 0x8000000000 ++ assemble ls)
    ∧ (∀ c ls, assemble (.wavadv c :: ls) = encode (.wavsw c true true) :: assemble ls)
    ∧ (∀ w ls, assemble (.word w :: ls) = w :: assemble ls)

/-- R48, R56: the decoder of the command port, whose checks stand in R56's order, agrees with the rows of the opcode
map followed by the checks on the channel and the depth. -/
def Obligations.PortDecoderAgreesWithTheOpcodeRows : Prop :=
  ∀ (k : Cfg) (w : EventWord),
    (∀ r, decodeShape w = .illegal r → decode k w = .error r)
      ∧ (∀ e, decodeShape w = .malformed e → decode k w = .error .illPort)
      ∧ (∀ i, decodeShape w = .instr i → IsCommand i → decode k w = judge k i)
      ∧ (∀ i, decodeShape w = .instr i → ¬ IsCommand i → decode k w = .error .illPort)

/-- R54: reserved opcodes are `ILL_OP`, and the port events' opcodes are `ILL_PORT`, on the command port. -/
def Obligations.ReservedAndPortOpcodesAreIllegal : Prop :=
  ∀ (k : Cfg) (w : EventWord),
    (opOf w ∈ [0x5#4, 0x6, 0x7, 0xA, 0xB, 0xC, 0xD, 0xE, 0xF] → decode k w = .error .illOp)
      ∧ (opOf w = 0x8 ∨ opOf w = 0x9 → decode k w = .error .illPort)

/-- R53: a command for a channel `>= N` is illegal with `ILL_CH` and touches nothing. -/
def Obligations.CommandForAbsentChannelTouchesNothing : Prop :=
  ∀ (s : State) (c : BitVec 4) (imm : BitVec 32) (r : BitVec 10) (g p : Bool) (d : BitVec 11),
    valid s.cfg = true → s.cfg.n.count ≤ c.toNat →
      ∀ i ∈ [Instr.settw c imm, .setfrq c r, .wavsw c g p, .setdep c d],
        decode s.cfg (encode i) = .error .illCh
          ∧ ∃ t, exec i s = .next t ∧ SameRegs s t ∧ t.out = { err := true }

/-- R55: the depth's range and presence are checked, and every value of every other operand is legal. -/
def Obligations.OperandRangesOfCommands : Prop :=
  ∀ (k : Cfg) (c : BitVec 4) (ch : Chan), ch.val = c.toNat → c.toNat < k.n.count →
    (∀ d, rd k.depthEn ch = false → decode k (encode (.setdep c d)) = .error .illDepthAbsent)
      ∧ (∀ d, rd k.depthEn ch = true → 1024 < d.toNat →
          decode k (encode (.setdep c d)) = .error .illDepthRange)
      ∧ (∀ d, rd k.depthEn ch = true → d.toNat ≤ 1024 →
          decode k (encode (.setdep c d)) = .ok (.setdep c d))
      ∧ (∀ imm, decode k (encode (.settw c imm)) = .ok (.settw c imm))
      ∧ (∀ r, decode k (encode (.setfrq c r)) = .ok (.setfrq c r))
      ∧ (∀ g p, decode k (encode (.wavsw c g p)) = .ok (.wavsw c g p))

/-! The step (20_memory R36, R38; 30_encoding R50, R51; 60_exceptions). -/

/-- R51, R50: in `IDLE`, a step runs the instruction its event's word decodes to, on the state with that event taken
from the inbox. -/
def Obligations.StepRunsTheDecodedInstruction : Prop :=
  ∀ (s : State) (w : EventWord) (rest : List Event) (i : Instr), s.phase = .idle →
    (s.inbox = .word w :: rest → decodeShape w = .instr i → step s = exec i (s.take rest))
      ∧ (s.inbox = .command w :: rest → decode s.cfg w = .ok i → step s = exec i (s.take rest))

/-- R36: an operation presented while the FSM is busy waits, and the FSM moves by one cycle. One cycle per step is
the model's choice (log 8). -/
def Obligations.OperationsWaitWhileTheFsmIsBusy : Prop :=
  ∀ (s : State) (w : EventWord) (rest : List Event), valid s.cfg = true → s.phase ≠ .idle →
    s.inbox = .word w :: rest ∨ s.inbox = .command w :: rest →
      ∃ t, step s = .next t ∧ t = microStep s ∧ t.inbox = s.inbox ∧ t.pos = s.pos

/-- R51: a trace word with opcode 0x8 or 0x9 that is not the exact shape of `TICK` or `SYNCSMP`, or has a level bit
at a position `>= NUM_TRIG`, is refused by name and position. That positions count from 1 (log 15) and
that this refusal comes also where `Cfg` is not valid (log 21) are the model's choices. -/
def Obligations.MalformedTraceWordsAreRefused : Prop :=
  ∀ (s : State) (w : EventWord) (rest : List Event), s.phase = .idle → s.inbox = .word w :: rest →
    (opOf w = 8 → w ≠ 0x8000000000 → step s = .refused (.illFormedTrace .tick (s.pos + 1)))
      ∧ (opOf w = 9 → (¬ ∃ l : BitVec 4, w = encode (.syncsmp l) ∧ ∀ t : Fin 4,
            s.cfg.numTrig.val ≤ t.val → levelAt l t = false) →
          step s = .refused (.illFormedTrace .syncsmp (s.pos + 1)))

/-- R8: a `Cfg` is valid when its five conditions hold, in exact rationals, and no step of an invalid one answers a
next state. -/
def Obligations.OnlyValidConfigurationsRun : Prop :=
  (∀ k : Cfg, valid k = true ↔
      1 ≤ k.tickDiv ∧ 1 ≤ k.slowDiv ∧ 0 < k.tickRate
        ∧ ∀ c : Chan, c.val < k.n.count →
          (0 ≤ rd k.minFreq c ∧ rd k.minFreq c ≤ rd k.maxFreq c)
            ∧ ⌊tuningX k c 1023 + 1 / 2⌋ ≤ 2 ^ 32 - 1
            ∧ (rd k.syncEn c = true → (rd k.syncSrc c).val < k.numTrig.val))
    ∧ ∀ s t : State, valid s.cfg = false → step s ≠ .next t

/-- R105: with a valid `Cfg` every step completes, but for an ill-formed trace word taken in `IDLE` (R51; its position
counts from 1 by the model's choice, log 15); and every operation completes, a `SYNCSMP` where its levels stand below
`NUM_TRIG`. -/
def Obligations.EveryStepCompletesOrNamesAnIllFormedWord : Prop :=
  ∀ s : State, valid s.cfg = true →
    ((∃ t, step s = .next t)
      ∨ s.phase = .idle ∧ ∃ w rest e, s.inbox = .word w :: rest
        ∧ (decodeShape w = .malformed e
          ∨ e = .syncsmp ∧ ∃ l, decodeShape w = .instr (.syncsmp l) ∧ levelsFit s.cfg l = false)
        ∧ step s = .refused (.illFormedTrace e (s.pos + 1)))
      ∧ ∀ i, (∀ l, i = .syncsmp l → levelsFit s.cfg l = true) → ∃ t, exec i s = .next t

/-- R106: an illegal command changes no register and raises `cmd_err` for its cycle, and nothing else raises it. It
arrives on the command port, as a trace word with a command opcode (R51), or in a clock cycle, which then differs from
the same cycle without the command in `cmd_err` only. -/
def Obligations.CmdErrIsRaisedByIllegalCommandsOnly : Prop :=
  ∀ s : State,
    (∀ w rest r, valid s.cfg = true → s.phase = .idle → decode s.cfg w = .error r →
        (s.inbox = .command w :: rest ∨ s.inbox = .word w :: rest ∧ opOf w ≠ 8 ∧ opOf w ≠ 9) →
        ∃ t, step s = .next t ∧ SameRegs (s.take rest) t ∧ t.out = { err := true })
      ∧ (∀ p rest r, valid s.cfg = true → s.phase = .idle → s.inbox = .clock p :: rest → p.rst = false →
        p.cmdValid = true → decode s.cfg p.cmdWord = .error r →
        ∃ t u, step s = .next t ∧ clockCycle { p with cmdValid := false } (s.take rest) = .next u
          ∧ t = { u with out := { err := true } } ∧ u.out = {})
      ∧ ∀ t, step s = .next t → t.out.err = true →
        s.phase = .idle ∧ ∃ w rest r, decode s.cfg w = .error r
          ∧ (s.inbox = .word w :: rest ∧ opOf w ≠ 8 ∧ opOf w ≠ 9 ∨ s.inbox = .command w :: rest
            ∨ ∃ p : Pins, s.inbox = .clock p :: rest ∧ p.rst = false ∧ p.cmdValid = true ∧ p.cmdWord = w)

/-! The parameter operations (41_param). -/

/-- R81: `NOP` changes nothing, and any other word with its opcode is `ILL_RSVD`. -/
def Obligations.NopChangesNothing : Prop :=
  (∀ s : State, valid s.cfg = true →
      ∃ t, exec .nop s = .next t ∧ SameRegs s t ∧ t.out = {})
    ∧ ∀ k : Cfg, decode k 0 = .ok .nop
      ∧ ∀ w : EventWord, opOf w = 0 → (chOf w ≠ 0 ∨ dataOf w ≠ 0) → decode k w = .error .illRsvd

/-- R82: `SETTW c, imm32` replaces `tw[c]` and nothing else; `ILL_CH` if `c >= N`. -/
def Obligations.SettwStoresTheTuningWord : Prop :=
  ∀ (s : State) (c : BitVec 4) (imm : BitVec 32), valid s.cfg = true →
    (c.toNat < s.cfg.n.count →
      ∃ t, exec (.settw c imm) s = .next t
        ∧ (∀ ch : Chan, rd t.tw ch = if ch.val = c.toNat then imm else rd s.tw ch)
        ∧ t.waveRef = s.waveRef ∧ t.lastWaveIndex = s.lastWaveIndex ∧ t.depth = s.depth
        ∧ CommandFrame s t ∧ t.out = {})
      ∧ opOf (encode (.settw c imm)) = 1
      ∧ (s.cfg.n.count ≤ c.toNat → decode s.cfg (encode (.settw c imm)) = .error .illCh)

/-- R83: in a valid `Cfg` the tuning word is `floor(X + 1/2)` of the exact rational `X`, `X` is not negative and the
word fits its register, for every reading. -/
def Obligations.TuningWordIsTheExactRationalRoundedHalfUp : Prop :=
  ∀ (k : Cfg) (c : Chan) (r : Nat), valid k = true → c.val < k.n.count → r ≤ 1023 →
    tuningX k c r = 2 ^ 32 * (1023 * rd k.minFreq c + r * (rd k.maxFreq c - rd k.minFreq c))
        / (1023 * k.tickRate)
      ∧ 0 ≤ tuningX k c r
      ∧ (tuningWord k c r : Int) = ⌊tuningX k c r + 1 / 2⌋
      ∧ tuningWord k c r ≤ 2 ^ 32 - 1

/-- R84 with R83: `SETFRQ c, reading` stores the rounded exact tuning word in `tw[c]` and changes nothing else; a set
bit of `data[31:10]` is `ILL_RSVD`, a channel `>= N` is `ILL_CH`. -/
def Obligations.SetfrqStoresTheTuningWordOfTheReading : Prop :=
  ∀ (s : State) (c : BitVec 4) (r : BitVec 10), valid s.cfg = true →
    (c.toNat < s.cfg.n.count →
      ∃ t, exec (.setfrq c r) s = .next t
        ∧ (∀ ch : Chan, ch.val = c.toNat →
            ((rd t.tw ch).toNat : Int) = ⌊tuningX s.cfg ch r.toNat + 1 / 2⌋)
        ∧ (∀ ch : Chan, ch.val ≠ c.toNat → rd t.tw ch = rd s.tw ch)
        ∧ t.waveRef = s.waveRef ∧ t.lastWaveIndex = s.lastWaveIndex ∧ t.depth = s.depth
        ∧ CommandFrame s t ∧ t.out = {})
      ∧ (s.cfg.n.count ≤ c.toNat → decode s.cfg (encode (.setfrq c r)) = .error .illCh)
      ∧ ∀ w : EventWord, opOf w = 2 → (dataOf w).extractLsb' 10 22 ≠ 0 → decode s.cfg w = .error .illRsvd

/-- R85: the tuning word never decreases with the reading, has the rounded values at both ends, and does not depend on
the state, so `SETFRQ` is idempotent. That the frequency produced is within half a step of the target is R85's own
inference ("The quantisation error of the frequency actually produced is at most `TICK_RATE / 2^33` hertz", derived
there from R83 and R68 law 3). -/
def Obligations.TuningWordPropertiesOfTheSource : Prop :=
  (∀ (k : Cfg) (c : Chan), valid k = true → c.val < k.n.count →
    (∀ r q : Nat, r ≤ q → q ≤ 1023 → tuningWord k c r ≤ tuningWord k c q)
      ∧ (tuningWord k c 0 : Int) = ⌊2 ^ 32 * rd k.minFreq c / k.tickRate + 1 / 2⌋
      ∧ (tuningWord k c 1023 : Int) = ⌊2 ^ 32 * rd k.maxFreq c / k.tickRate + 1 / 2⌋
      ∧ ∀ r : Nat, r ≤ 1023 →
        |outputFreq k (tuningWord k c r) - freq k c r| ≤ k.tickRate / 2 ^ 33)
    ∧ ∀ (s u t : State) (c : BitVec 4) (r : BitVec 10), s.cfg = u.cfg → c.toNat < s.cfg.n.count →
      exec (.setfrq c r) s = .next t →
        (∃ v, exec (.setfrq c r) u = .next v ∧ rd v.tw (chan c) = rd t.tw (chan c))
          ∧ ∃ v, exec (.setfrq c r) t = .next v ∧ SameRegs t v

/-- R86: `WAVSW c, changed, pressed` advances both wave registers modulo 9 on a press edge and changes nothing
otherwise; a set bit of `data[31:2]` is `ILL_RSVD`, a channel `>= N` is `ILL_CH`. -/
def Obligations.WavswAdvancesOnAPressEdgeOnly : Prop :=
  ∀ (s : State) (c : BitVec 4) (g p : Bool), valid s.cfg = true →
    (c.toNat < s.cfg.n.count →
      ∃ t, exec (.wavsw c g p) s = .next t
        ∧ (∀ ch : Chan, ch.val = c.toNat → g = true → p = true →
            (rd t.lastWaveIndex ch).val = ((rd s.lastWaveIndex ch).val + 1) % 9
              ∧ rd t.waveRef ch = rd t.lastWaveIndex ch)
        ∧ (∀ ch : Chan, ch.val ≠ c.toNat ∨ g = false ∨ p = false →
            rd t.lastWaveIndex ch = rd s.lastWaveIndex ch ∧ rd t.waveRef ch = rd s.waveRef ch)
        ∧ t.tw = s.tw ∧ t.depth = s.depth ∧ CommandFrame s t ∧ t.out = {})
      ∧ (s.cfg.n.count ≤ c.toNat → decode s.cfg (encode (.wavsw c g p)) = .error .illCh)
      ∧ ∀ w : EventWord, opOf w = 3 → (dataOf w).extractLsb' 2 30 ≠ 0 → decode s.cfg w = .error .illRsvd

/-- R87: without a new press the wave registers never change; `j` press edges advance by `j` modulo 9, so nine return
to the first index; and no instruction moves a wave reference anywhere but to the index after the last. -/
def Obligations.WaveSelectCyclesThroughTheLibrary : Prop :=
  (∀ (s : State) (c : BitVec 4) (p : Bool) (j : Nat), valid s.cfg = true →
      ∃ t, execAll (List.replicate j (.wavsw c false p)) s = .next t
        ∧ t.waveRef = s.waveRef ∧ t.lastWaveIndex = s.lastWaveIndex)
    ∧ (∀ (s : State) (c : BitVec 4) (ch : Chan) (j : Nat), valid s.cfg = true → ch.val = c.toNat →
      c.toNat < s.cfg.n.count →
        ∃ t, execAll (List.replicate j (.wavsw c true true)) s = .next t
          ∧ (rd t.lastWaveIndex ch).val = ((rd s.lastWaveIndex ch).val + j) % 9
          ∧ (0 < j → rd t.waveRef ch = rd t.lastWaveIndex ch))
    ∧ ∀ (i : Instr) (s t : State) (ch : Chan), exec i s = .next t →
      rd t.waveRef ch = rd s.waveRef ch
        ∨ (rd t.waveRef ch).val = ((rd s.lastWaveIndex ch).val + 1) % 9

/-- R88: `SETDEP c, dval` stores `dval` in `depth[c]` and changes nothing else; its four errors, in their order. -/
def Obligations.SetdepStoresTheDepth : Prop :=
  ∀ (s : State) (c : BitVec 4) (d : BitVec 11) (ch : Chan), valid s.cfg = true → ch.val = c.toNat % 4 →
    (c.toNat < s.cfg.n.count → rd s.cfg.depthEn ch = true → d.toNat ≤ 1024 →
      ∃ t, exec (.setdep c d) s = .next t
        ∧ rd t.depth ch = d ∧ (∀ e : Chan, e ≠ ch → rd t.depth e = rd s.depth e)
        ∧ t.tw = s.tw ∧ t.waveRef = s.waveRef ∧ t.lastWaveIndex = s.lastWaveIndex
        ∧ CommandFrame s t ∧ t.out = {})
      ∧ (∀ w : EventWord, opOf w = 4 → (dataOf w).extractLsb' 11 21 ≠ 0 → decode s.cfg w = .error .illRsvd)
      ∧ decode s.cfg (encode (.setdep c d)) =
        (if s.cfg.n.count ≤ c.toNat then .error .illCh
          else if rd s.cfg.depthEn ch = false then .error .illDepthAbsent
          else if 1024 < d.toNat then .error .illDepthRange
          else .ok (.setdep c d))

/-- R89: a control pass is never rejected when its depths are in range, and it leaves every channel with the tuning
word of its reading, its depth, and its wave advanced if its switch was pressed. -/
def Obligations.ControlPassPublishesEveryParameter : Prop :=
  ∀ (s : State) (r : Vector Reading 4), valid s.cfg = true →
    (∀ c : Chan, c.val < s.cfg.n.count → rd s.cfg.depthEn c = true → (rd r c).dval.toNat ≤ 1024) →
      (∀ i ∈ controlPass s.cfg r, decode s.cfg (encode i) = .ok i)
        ∧ ∃ t, execAll (controlPass s.cfg r) s = .next t ∧ NoIllegalCommand t ∧ CommandFrame s t
        ∧ ∀ c : Chan, c.val < s.cfg.n.count →
          (rd t.tw c).toNat = tuningWord s.cfg c (rd r c).reading.toNat
            ∧ rd t.depth c = (if rd s.cfg.depthEn c then (rd r c).dval else rd s.depth c)
            ∧ (rd t.lastWaveIndex c).val =
              (if (rd r c).changed ∧ (rd r c).pressed then ((rd s.lastWaveIndex c).val + 1) % 9
                else (rd s.lastWaveIndex c).val)
            ∧ rd t.waveRef c =
              (if (rd r c).changed ∧ (rd r c).pressed then rd t.lastWaveIndex c else rd s.waveRef c)

/-! The tick (40_tick). -/

/-- R60: `TICK` advances every accumulator, writes every compare register with the scaled sample at the new phase,
moves the counters and raises their outputs, and changes no other register. The premise on the depth is the invariant
of R22, kept by every step (`EveryStepKeepsTheInvariant`). That the state has places `>= N`, unchanged here, is the
model's choice (log 6). -/
def Obligations.TickServesEveryChannelAndTheCounters : Prop :=
  ∀ s : State, valid s.cfg = true →
    ∃ t, exec .tick s = .next t
      ∧ (∀ c : Chan, c.val < s.cfg.n.count →
          rd t.acc c = rd s.acc c + rd s.tw c
            ∧ ((rd s.depth c).toNat ≤ 1024 →
              let off := (rd t.acc c).toNat / 2 ^ 24
              let sample := (romAt s.cfg.rom (256 * (rd s.waveRef c).val + off)).toNat
              (rd t.pwm c).toNat =
                if rd s.cfg.depthEn c then sample * (rd s.depth c).toNat / 1024 else sample))
      ∧ (∀ c : Chan, s.cfg.n.count ≤ c.val → rd t.acc c = rd s.acc c ∧ rd t.pwm c = rd s.pwm c)
      ∧ t.tickCnt = (if s.tickCnt + 1 = s.cfg.tickDiv then 0 else s.tickCnt + 1)
      ∧ t.slowCnt = (if s.tickCnt + 1 = s.cfg.tickDiv then
            if s.slowCnt + 1 = s.cfg.slowDiv then 0 else s.slowCnt + 1
          else s.slowCnt)
      ∧ (t.out.slowStb = true ↔ s.tickCnt + 1 = s.cfg.tickDiv)
      ∧ (t.out.cadence = true ↔ s.tickCnt + 1 = s.cfg.tickDiv ∧ s.slowCnt + 1 = s.cfg.slowDiv)
      ∧ t.out.err = false
      ∧ SameParams s t ∧ t.syncLastLevel = s.syncLastLevel ∧ SameConfig s t ∧ SameControl s t

/-- R62, R63: the `ACC` cycle adds the tuning word modulo `2^32` and keeps the new accumulator's top 8 bits. -/
def Obligations.AccCycleAddsTheTuningWord : Prop :=
  ∀ (s : State) (p : Pins), valid s.cfg = true → p.rst = false → s.phase = .acc →
    ∃ t, clockCycle p s = .next t
      ∧ (rd t.acc s.ci).toNat = ((rd s.acc s.ci).toNat + (rd s.tw s.ci).toNat) % 2 ^ 32
      ∧ (∀ d, d ≠ s.ci → rd t.acc d = rd s.acc d)
      ∧ t.offsetQ.toNat = (rd t.acc s.ci).toNat / 2 ^ 24
      ∧ t.phase = .lookup ∧ t.ci = s.ci ∧ t.sampleQ = s.sampleQ ∧ t.outQ = s.outQ ∧ t.freeIdx = s.freeIdx
      ∧ SameParams s t ∧ SameOutputs s t ∧ t.syncLastLevel = s.syncLastLevel ∧ SameConfig s t ∧ t.out = {}

/-- R64: the `LOOKUP` cycle reads the entry `offset_q` of the channel's wavetable. -/
def Obligations.LookupCycleReadsTheWavetable : Prop :=
  ∀ (s : State) (p : Pins), valid s.cfg = true → p.rst = false → s.phase = .lookup →
    ∃ t, clockCycle p s = .next t
      ∧ t.sampleQ = romAt s.cfg.rom (256 * (rd s.waveRef s.ci).val + s.offsetQ.toNat)
      ∧ t.phase = .scale ∧ t.ci = s.ci ∧ t.offsetQ = s.offsetQ ∧ t.outQ = s.outQ ∧ t.freeIdx = s.freeIdx
      ∧ t.acc = s.acc ∧ SameParams s t ∧ SameOutputs s t ∧ t.syncLastLevel = s.syncLastLevel
      ∧ SameConfig s t ∧ t.out = {}

/-- R65: the `SCALE` cycle multiplies by the depth and divides by 1024, truncating, where the channel has depth. The
premise on the depth is the invariant of R22, kept by every step (`EveryStepKeepsTheInvariant`). -/
def Obligations.ScaleCycleTruncatesTheProduct : Prop :=
  ∀ (s : State) (p : Pins), valid s.cfg = true → p.rst = false → s.phase = .scale →
    (rd s.depth s.ci).toNat ≤ 1024 →
    ∃ t, clockCycle p s = .next t
      ∧ t.outQ.toNat = (if rd s.cfg.depthEn s.ci then s.sampleQ.toNat * (rd s.depth s.ci).toNat / 1024
          else s.sampleQ.toNat)
      ∧ t.phase = .write ∧ t.ci = s.ci ∧ t.offsetQ = s.offsetQ ∧ t.sampleQ = s.sampleQ
      ∧ t.freeIdx = s.freeIdx ∧ t.acc = s.acc ∧ SameParams s t ∧ SameOutputs s t
      ∧ t.syncLastLevel = s.syncLastLevel ∧ SameConfig s t ∧ t.out = {}

/-- R66: the `WRITE` cycle writes the channel's compare register and passes to the next channel or to `COUNT`. -/
def Obligations.WriteCycleWritesOneCompareRegister : Prop :=
  ∀ (s : State) (p : Pins), valid s.cfg = true → p.rst = false → s.phase = .write →
    s.ci.val < s.cfg.n.count →
    ∃ t, clockCycle p s = .next t
      ∧ rd t.pwm s.ci = s.outQ ∧ (∀ d, d ≠ s.ci → rd t.pwm d = rd s.pwm d)
      ∧ (s.ci.val + 1 = s.cfg.n.count → t.phase = .count ∧ t.ci = s.ci)
      ∧ (s.ci.val + 1 ≠ s.cfg.n.count → t.phase = .acc ∧ t.ci.val = s.ci.val + 1)
      ∧ SameLatches s t ∧ t.acc = s.acc ∧ SameParams s t ∧ t.tickCnt = s.tickCnt ∧ t.slowCnt = s.slowCnt
      ∧ t.syncLastLevel = s.syncLastLevel ∧ SameConfig s t ∧ t.out = {}

/-- R67: the `COUNT` cycle moves the counters, compared on the incremented value, and returns to `IDLE`. -/
def Obligations.CountCycleMovesTheCounters : Prop :=
  ∀ (s : State) (p : Pins), valid s.cfg = true → p.rst = false → s.phase = .count →
    ∃ t, clockCycle p s = .next t
      ∧ t.tickCnt = (if s.tickCnt + 1 = s.cfg.tickDiv then 0 else s.tickCnt + 1)
      ∧ t.slowCnt = (if s.tickCnt + 1 = s.cfg.tickDiv then
            if s.slowCnt + 1 = s.cfg.slowDiv then 0 else s.slowCnt + 1
          else s.slowCnt)
      ∧ (t.out.slowStb = true ↔ s.tickCnt + 1 = s.cfg.tickDiv)
      ∧ (t.out.cadence = true ↔ s.tickCnt + 1 = s.cfg.tickDiv ∧ s.slowCnt + 1 = s.cfg.slowDiv)
      ∧ t.phase = .idle ∧ t.ci = 0 ∧ t.acc = s.acc ∧ t.pwm = s.pwm ∧ SameParams s t
      ∧ t.syncLastLevel = s.syncLastLevel ∧ SameConfig s t ∧ t.out.err = false

/-- R69: the transitions of the FSM are exactly the table's, `rst` overrides every row, and a tick occupies `4N + 1`
busy cycles after the cycle that accepted its strobe. -/
def Obligations.FsmTransitionsAreTheTables : Prop :=
  (∀ (p : Pins) (s t : State), (s.phase = .idle → s.ci = 0) → s.ci.val < s.cfg.n.count →
      clockCycle p s = .next t →
        (p.rst = true → t.phase = .idle ∧ t.ci = 0)
          ∧ (p.rst = false →
            (s.phase = .idle → p.tickStb = false → t.phase = .idle ∧ t.ci = 0)
              ∧ (s.phase = .idle → p.tickStb = true → t.phase = .acc ∧ t.ci = 0)
              ∧ (s.phase = .acc → t.phase = .lookup ∧ t.ci = s.ci)
              ∧ (s.phase = .lookup → t.phase = .scale ∧ t.ci = s.ci)
              ∧ (s.phase = .scale → t.phase = .write ∧ t.ci = s.ci)
              ∧ (s.phase = .write → s.ci.val + 1 < s.cfg.n.count →
                  t.phase = .acc ∧ t.ci.val = s.ci.val + 1)
              ∧ (s.phase = .write → s.ci.val + 1 = s.cfg.n.count → t.phase = .count ∧ t.ci = s.ci)
              ∧ (s.phase = .count → t.phase = .idle ∧ t.ci = 0)))
    ∧ ∀ s : State,
      (∀ j, j < 4 * s.cfg.n.count + 1 → (microSteps j (acceptStrobe s)).phase ≠ .idle)
        ∧ (microSteps (4 * s.cfg.n.count + 1) (acceptStrobe s)).phase = .idle

/-- R71: from `IDLE`, an accepted strobe and `4N + 1` cycles of the FSM end in exactly the state `TICK` gives.
That the latches and `freeIdx` agree too rests on the model's free values (log 4). -/
def Obligations.FsmRefinesTick : Prop :=
  ∀ s : State, valid s.cfg = true → s.phase = .idle → s.ci = 0 →
    exec .tick s = .next (microSteps (4 * s.cfg.n.count + 1) (acceptStrobe s))

/-- R69, R101, R111, R128: from whatever cycle of a tick, the FSM is back in `IDLE` within `4N + 1` cycles, so a command
or a trigger level held for one cycle more meets an `IDLE` cycle. -/
def Obligations.BusyTimeIsBoundedByOneTick : Prop :=
  ∀ s : State, s.ci.val < s.cfg.n.count →
    ∃ j, j ≤ 4 * s.cfg.n.count + 1 ∧ (microSteps j s).phase = .idle

/-- R70, R36, R99: in a busy cycle without `rst` no input pin matters: a strobe is dropped, a command waits, no
trigger is sampled. -/
def Obligations.BusyCyclesIgnoreTheInputPins : Prop :=
  ∀ (p q : Pins) (s : State), s.phase ≠ .idle → p.rst = false → q.rst = false →
    clockCycle p s = clockCycle q s

/-- R36, R40, R71: an `IDLE` cycle that accepts a command and a tick strobe, followed by `4N + 1` cycles with any
pins but `rst`, leaves the registers that the command, the trigger sample and the `TICK` leave as atomic operations,
in that order. R40 allows either order of command and sample; this one is the model's choice (log 14), and that the
latches agree too rests on its free values (log 4). Other `IDLE` cycles: `IdleCycleTakesCommandSampleAndStrobe`. -/
def Obligations.CycleLevelRefinesTheOperationLevel : Prop :=
  ∀ (s : State) (p : Pins) (i : Instr) (ps : List Pins) (rest : List Event),
    valid s.cfg = true → s.phase = .idle → s.ci = 0 →
    p.rst = false → p.cmdValid = true → decode s.cfg p.cmdWord = .ok i → p.tickStb = true →
    levelsFit s.cfg p.trig = true →
    ps.length = 4 * s.cfg.n.count + 1 → (∀ q ∈ ps, q.rst = false) →
    s.inbox = .clock p :: (ps.map .clock ++ rest) →
      ∃ t u, core.run (4 * s.cfg.n.count + 2) s = .next t
        ∧ execAll [i, .syncsmp p.trig, .tick] s = .next u
        ∧ t = { u with inbox := rest, pos := s.pos + (4 * s.cfg.n.count + 2) }

/-- R60, R73: what `TICK` gives channel `c` depends on that channel's registers only, and channels with equal tuning
words and equal phases stay equal. -/
def Obligations.ChannelsDoNotInteractInATick : Prop :=
  (∀ (s u t v : State) (c : Chan), s.cfg = u.cfg →
      rd s.acc c = rd u.acc c → rd s.tw c = rd u.tw c → rd s.waveRef c = rd u.waveRef c →
      (rd s.cfg.depthEn c = true → rd s.depth c = rd u.depth c) → c.val < s.cfg.n.count →
      exec .tick s = .next t → exec .tick u = .next v →
        rd t.acc c = rd v.acc c ∧ rd t.pwm c = rd v.pwm c)
    ∧ ∀ (s t : State) (c d : Chan), c.val < s.cfg.n.count → d.val < s.cfg.n.count →
      rd s.acc c = rd s.acc d → rd s.tw c = rd s.tw d → exec .tick s = .next t →
        rd t.acc c = rd t.acc d

/-- R68, law 1: over any operations with `k` `TICK`s among them, no new tuning word for channel `c` and no active edge
on it, its accumulator becomes `(initial + k * t) mod 2^32`. Illegal commands, commands to other channels and samples
without an active edge for `c` may stand among them. -/
def Obligations.AccumulatorIsLinearInTicks : Prop :=
  ∀ (is : List Instr) (s : State) (c : Chan), valid s.cfg = true → c.val < s.cfg.n.count →
    AllKeepSlope c is s →
      ∃ t, execAll is s = .next t ∧ rd t.tw c = rd s.tw c
        ∧ (rd t.acc c).toNat = ((rd s.acc c).toNat + ticksOf is * (rd s.tw c).toNat) % 2 ^ 32

/-- R68, law 2: with `tw[c] = 2^32 / P` for a power of two `P`, the accumulator returns to its start after exactly `P`
ticks and not before. -/
def Obligations.PowerOfTwoPeriod : Prop :=
  ∀ (s : State) (c : Chan) (j : Nat), valid s.cfg = true → c.val < s.cfg.n.count → 0 < j → j ≤ 32 →
    (rd s.tw c).toNat = 2 ^ (32 - j) →
      (∃ t, execAll (List.replicate (2 ^ j) .tick) s = .next t ∧ rd t.acc c = rd s.acc c)
        ∧ ∀ m, 0 < m → m < 2 ^ j →
          ∃ t, execAll (List.replicate m .tick) s = .next t ∧ rd t.acc c ≠ rd s.acc c

/-- R63, R68 (the source's scenario E9): with `tw[c] = 2^24` and no depth, the `k`-th tick writes the entry `k` places
after the starting offset, cyclically, of the channel's wavetable. -/
def Obligations.WavetableIsReadInCyclicOrder : Prop :=
  ∀ (s : State) (c : Chan) (k : Nat), valid s.cfg = true → c.val < s.cfg.n.count →
    rd s.cfg.depthEn c = false → rd s.tw c = 0x01000000 → 0 < k →
      ∃ t, execAll (List.replicate k .tick) s = .next t
        ∧ rd t.pwm c =
          romAt s.cfg.rom (256 * (rd s.waveRef c).val + ((rd s.acc c).toNat / 2 ^ 24 + k) % 256)

/-- R67: after any operations from reset, the counters are the number of `TICK`s modulo `TICK_DIV` and its quotient
modulo `SLOW_DIV`. -/
def Obligations.CountersCountTheTicksSinceReset : Prop :=
  ∀ (k : Cfg) (is : List Instr) (t : State), execAll is (State.resetOf k) = .next t →
    t.tickCnt = ticksOf is % k.tickDiv ∧ t.slowCnt = ticksOf is / k.tickDiv % k.slowDiv

/-- R72: the `n`-th tick since reset raises `slow_stb` exactly when `TICK_DIV` divides `n`, and `cadence` exactly when
`TICK_DIV * SLOW_DIV` does. -/
def Obligations.SlowTicksAndCadenceComeOnTime : Prop :=
  ∀ (k : Cfg) (is : List Instr) (t : State),
    execAll (is ++ [.tick]) (State.resetOf k) = .next t →
      (t.out.slowStb = true ↔ k.tickDiv ∣ ticksOf is + 1)
        ∧ (t.out.cadence = true ↔ k.tickDiv * k.slowDiv ∣ ticksOf is + 1)

/-! The edge detector (42_sync). -/

/-- R95, R96: `SYNCSMP levels`, the four cases of the level-compare detector for every channel, and what it leaves
unchanged. That the state has places `>= N`, unchanged here, is the model's choice (log 6). -/
def Obligations.SyncsmpIsALevelCompareEdgeDetector : Prop :=
  ∀ (s : State) (levels : BitVec 4), valid s.cfg = true → levels.toNat < 2 ^ s.cfg.numTrig.val →
    ∃ t, exec (.syncsmp levels) s = .next t
      ∧ (∀ c : Chan, c.val < s.cfg.n.count → rd s.cfg.syncEn c = true →
          let l := levelAt levels (rd s.cfg.syncSrc c)
          (l = rd s.syncLastLevel c →
              rd t.syncLastLevel c = rd s.syncLastLevel c ∧ rd t.acc c = rd s.acc c)
            ∧ (l ≠ rd s.syncLastLevel c → l = rd s.cfg.syncPol c →
              rd t.syncLastLevel c = l ∧ rd t.acc c = 0)
            ∧ (l ≠ rd s.syncLastLevel c → l ≠ rd s.cfg.syncPol c →
              rd t.syncLastLevel c = l ∧ rd t.acc c = rd s.acc c))
      ∧ (∀ c : Chan, s.cfg.n.count ≤ c.val ∨ rd s.cfg.syncEn c = false →
          rd t.syncLastLevel c = rd s.syncLastLevel c ∧ rd t.acc c = rd s.acc c)
      ∧ SameParams s t ∧ SameOutputs s t ∧ SameConfig s t ∧ SameControl s t ∧ SameLatches s t ∧ t.out = {}

/-- R97: an active edge sets the accumulator to exactly 0 and leaves the compare register; the next `TICK` leaves
`acc[c] = tw[c]` and writes the sample at offset `tw[c][31:24]`. -/
def Obligations.SyncResetIsExactAndTheNextTickStartsFromIt : Prop :=
  ∀ (s : State) (levels : BitVec 4) (c : Chan), valid s.cfg = true → levelsFit s.cfg levels = true →
    c.val < s.cfg.n.count → rd s.cfg.syncEn c = true →
    levelAt levels (rd s.cfg.syncSrc c) ≠ rd s.syncLastLevel c →
    levelAt levels (rd s.cfg.syncSrc c) = rd s.cfg.syncPol c →
      (∃ t, exec (.syncsmp levels) s = .next t ∧ rd t.acc c = 0 ∧ t.pwm = s.pwm ∧ SameParams s t)
        ∧ ∃ t, execAll [.syncsmp levels, .tick] s = .next t ∧ rd t.acc c = rd s.tw c
          ∧ (rd s.cfg.depthEn c = false →
            rd t.pwm c = romAt s.cfg.rom (256 * (rd s.waveRef c).val + (rd s.tw c).toNat / 2 ^ 24))

/-- R98: two channels on one trigger input with equal polarity and equal stored level are reset by the same sample. -/
def Obligations.SharedTriggerResetsBothChannels : Prop :=
  ∀ (s : State) (levels : BitVec 4) (c d : Chan), valid s.cfg = true → levelsFit s.cfg levels = true →
    c.val < s.cfg.n.count → d.val < s.cfg.n.count →
    rd s.cfg.syncEn c = true → rd s.cfg.syncEn d = true →
    rd s.cfg.syncSrc c = rd s.cfg.syncSrc d → rd s.cfg.syncPol c = rd s.cfg.syncPol d →
    rd s.syncLastLevel c = rd s.syncLastLevel d →
    rd s.syncLastLevel c ≠ rd s.cfg.syncPol c →
    levelAt levels (rd s.cfg.syncSrc c) = rd s.cfg.syncPol c →
      ∃ t, exec (.syncsmp levels) s = .next t ∧ rd t.acc c = 0 ∧ rd t.acc d = 0

/-- R100: a sample whose levels equal every stored level changes nothing, so a run of equal samples is one. -/
def Obligations.RepeatedSamplesCollapse : Prop :=
  (∀ (s : State) (levels : BitVec 4), valid s.cfg = true → levelsFit s.cfg levels = true →
      (∀ c : Chan, c.val < s.cfg.n.count → rd s.cfg.syncEn c = true →
        levelAt levels (rd s.cfg.syncSrc c) = rd s.syncLastLevel c) →
      ∃ t, exec (.syncsmp levels) s = .next t ∧ SameRegs s t)
    ∧ ∀ (s t : State) (levels : BitVec 4) (j : Nat), exec (.syncsmp levels) s = .next t →
      execAll (List.replicate (j + 1) (.syncsmp levels)) s = .next t

/-- R40, item 3: a command and a trigger sample commute. -/
def Obligations.CommandAndSampleCommute : Prop :=
  ∀ (s : State) (i : Instr) (levels : BitVec 4), valid s.cfg = true → IsCommand i →
    levelsFit s.cfg levels = true →
      ∃ t u, execAll [i, .syncsmp levels] s = .next t ∧ execAll [.syncsmp levels, i] s = .next u
        ∧ SameRegs t u

/-! Reset, the invariant and the whole machine (10_state, 20_memory, 60_exceptions, 70_reset). -/

/-- R25: the value of every register after reset. -/
def Obligations.ResetValuesOfEveryRegister : Prop :=
  ∀ s : State, (s = State.reset ∨ ∃ k, s = State.resetOf k) →
    s.tickCnt = 0 ∧ s.slowCnt = 0 ∧ s.phase = .idle ∧ s.ci = 0
      ∧ ∀ c : Chan, c.val < s.cfg.n.count →
        rd s.acc c = 0 ∧ rd s.tw c = 0 ∧ rd s.waveRef c = 0 ∧ rd s.lastWaveIndex c = 0
        ∧ (rd s.cfg.depthEn c = true → rd s.depth c = 1024)
        ∧ (rd s.cfg.syncEn c = true → rd s.syncLastLevel c = false) ∧ rd s.pwm c = 0

/-- R120, R25: `rst` at a clock edge, and the event `RESET` in any phase, give every register its reset value whatever
the FSM was doing and whatever the other pins are; `cmd_ready` reads 0 during reset and 1 after it. That the outputs
are low and the configuration and the events to come stay is the model's inference (log 12, from R106, R72, R122). -/
def Obligations.RstOverridesEverything : Prop :=
  (∀ (s : State) (p : Pins), valid s.cfg = true → p.rst = true →
    (ports p s).cmdReady = false
      ∧ ∃ t, clockCycle p s = .next t ∧ AtReset s.cfg t ∧ t.out = {} ∧ t.inbox = s.inbox
        ∧ ∀ q : Pins, q.rst = false → (ports q t).cmdReady = true)
    ∧ ∀ (s : State) (rest : List Event), valid s.cfg = true → s.inbox = .reset :: rest →
      ∃ t, step s = .next t ∧ AtReset s.cfg t ∧ t.out = {} ∧ t.inbox = rest ∧ t.pos = s.pos + 1

/-- R22, R25: the invariant holds after reset of every valid `Cfg`, and at the model's own reset state
(whose `Cfg` is the model's choice, log 2). -/
def Obligations.InvariantHoldsAfterReset : Prop :=
  (∀ k : Cfg, valid k = true → Invariant (State.resetOf k)) ∧ Invariant State.reset

/-- R22: every step keeps the invariant, from every state that meets it. -/
def Obligations.EveryStepKeepsTheInvariant : Prop :=
  ∀ s t : State, Invariant s → step s = .next t → Invariant t

/-- R42, R122: no step changes the configuration or a byte of the ROM, and the ROM's data stays in canonical form.
That form is the model's choice (log 3). -/
def Obligations.NothingWritesTheConfigurationOrTheRom : Prop :=
  ∀ s t : State, step s = .next t →
    t.cfg = s.cfg ∧ (∀ a, romAt t.cfg.rom a = romAt s.cfg.rom a) ∧ (s.cfg.rom.wf → t.cfg.rom.wf)

/-- R31: every entry of every table has an address of its own inside the ROM's 2304 bytes. -/
def Obligations.RomEntriesHaveDistinctAddressesInRange : Prop :=
  ∀ (w v : Wave) (a b : Byte), romAddr w a < 2304 ∧ (romAddr w a = romAddr v b → w = v ∧ a = b)

/-- R21, R112: each register changes only under the operations that own it. -/
def Obligations.EachRegisterHasItsWriters : Prop :=
  ∀ (i : Instr) (s t : State), exec i s = .next t →
    (t.acc ≠ s.acc → i = .tick ∨ ∃ l, i = .syncsmp l)
      ∧ (t.tw ≠ s.tw → (∃ c v, i = .settw c v) ∨ ∃ c r, i = .setfrq c r)
      ∧ (t.waveRef ≠ s.waveRef ∨ t.lastWaveIndex ≠ s.lastWaveIndex → ∃ c, i = .wavsw c true true)
      ∧ (t.depth ≠ s.depth → ∃ c d, i = .setdep c d)
      ∧ (t.syncLastLevel ≠ s.syncLastLevel → ∃ l, i = .syncsmp l)
      ∧ (t.pwm ≠ s.pwm ∨ t.tickCnt ≠ s.tickCnt ∨ t.slowCnt ≠ s.slowCnt → i = .tick)
      ∧ SameConfig s t ∧ SameControl s t

/-- R112: the control side can change an accumulator in one way only, to 0 through an active edge in a sample, and can
change no compare register and no counter. -/
def Obligations.ControlSideOnlyZeroesAnAccumulator : Prop :=
  (∀ (is : List Instr) (s t : State) (c : Chan), (∀ i ∈ is, i ≠ .tick) → execAll is s = .next t →
    (rd t.acc c = rd s.acc c ∨ rd t.acc c = 0 ∧ ∃ l, Instr.syncsmp l ∈ is) ∧ SameOutputs s t)
    ∧ ∀ (i : Instr) (s t : State) (c : Chan), i ≠ .tick → exec i s = .next t → rd t.acc c ≠ rd s.acc c →
      rd t.acc c = 0 ∧ ∃ l, i = .syncsmp l ∧ c.val < s.cfg.n.count ∧ ActiveEdge s l c

/-- R80: no command on one channel touches any register of another channel, nor an accumulator, a compare register, a
sync level or a counter. -/
def Obligations.CommandsTouchTheirOwnChannelOnly : Prop :=
  ∀ (i : Instr) (s t : State), IsCommand i → exec i s = .next t →
    CommandFrame s t ∧ t.out.slowStb = false ∧ t.out.cadence = false
      ∧ ∀ d : Chan, (∀ c, channelField i = some c → c.toNat ≠ d.val) → SameChannel d s t

/-- R53, R60, R95: no operation touches a register at a place `>= N`. That such places are in the state is the model's
choice (log 6). -/
def Obligations.PlacesAboveTheLastChannelAreNeverTouched : Prop :=
  ∀ (i : Instr) (s t : State) (d : Chan), s.cfg.n.count ≤ d.val → exec i s = .next t → SameChannel d s t

/-- R124: between reset and the first command every tick leaves every accumulator 0 and writes the first entry of
table 0 to every compare register. -/
def Obligations.TicksBeforeAnyCommandRepeatTheFirstEntry : Prop :=
  ∀ (k : Cfg) (j : Nat), valid k = true → 0 < j →
    ∃ t, execAll (List.replicate j .tick) (State.resetOf k) = .next t
      ∧ ∀ c : Chan, c.val < k.n.count → rd t.acc c = 0 ∧ rd t.pwm c = romRead k 0 0

/-! Clock cycles and pins (10_state R24, 20_memory R40, 70_reset R130). -/

/-- R36, R40, R50, R99: an `IDLE` cycle without `rst` performs the command on the port if there is one (an illegal one
is rejected, R106), then samples the trigger pins whatever else happens, then enters `ACC` if a strobe came and stays
in `IDLE` if none did. Command before sample is the model's choice (log 14); the places `>= N` are too (log 6). -/
def Obligations.IdleCycleTakesCommandSampleAndStrobe : Prop :=
  ∀ (s : State) (p : Pins), valid s.cfg = true → s.phase = .idle → p.rst = false →
    ∃ u t, clockCycle p s = .next t
      ∧ (p.cmdValid = false → SameRegs s u ∧ u.out = {})
      ∧ (p.cmdValid = true → (∀ i, decode s.cfg p.cmdWord = .ok i → exec i s = .next u)
          ∧ ∀ r, decode s.cfg p.cmdWord = .error r → SameRegs s u ∧ u.out = { err := true })
      ∧ Sampled p.trig u t
      ∧ (p.tickStb = true → t.phase = .acc ∧ t.ci = 0) ∧ (p.tickStb = false → t.phase = .idle ∧ t.ci = s.ci)
      ∧ t.inbox = s.inbox ∧ t.pos = s.pos ∧ t.out = u.out

/-- R24, R72, R106, R130: the ports of a clock cycle show its registers, and the three strobes are the outputs `Out` of
that very cycle (low with `rst`, log 20); of the cycles of a tick, numbered from 1 after the cycle that accepted its
strobe, `slow_stb` and `cadence` can be high in cycle `4N + 1`, the `COUNT` cycle, only, `busy` is high in all of them,
and `pwm[c]` is written in cycle `4c + 4`. -/
def Obligations.OutputPinsBelongToTheirCycle : Prop :=
  (∀ (p : Pins) (s t : State), clockCycle p s = .next t →
    (ports p s).cmdErr = t.out.err ∧ (ports p s).slowStb = t.out.slowStb ∧ (ports p s).cadence = t.out.cadence
      ∧ ((ports p s).busy = true ↔ s.phase ≠ .idle)
      ∧ ((ports p s).cmdReady = true ↔ s.phase = .idle ∧ p.rst = false)
      ∧ (ports p s).tickCntOut = s.tickCnt ∧ (ports p s).slowCntOut = s.slowCnt
      ∧ (ports p s).pwmOut.length = s.cfg.n.count
      ∧ ∀ c : Chan, c.val < s.cfg.n.count → (ports p s).pwmOut[c.val]? = some (rd s.pwm c))
    ∧ ∀ (s : State) (p : Pins) (j : Nat), valid s.cfg = true → p.rst = false → j ≤ 4 * s.cfg.n.count →
      ∃ v, exec .tick s = .next v
        ∧ (ports p (microSteps j (acceptStrobe s))).busy = true
        ∧ ((ports p (microSteps j (acceptStrobe s))).slowStb = true ↔
          j + 1 = 4 * s.cfg.n.count + 1 ∧ v.out.slowStb = true)
        ∧ ((ports p (microSteps j (acceptStrobe s))).cadence = true ↔
          j + 1 = 4 * s.cfg.n.count + 1 ∧ v.out.cadence = true)
        ∧ ∀ c : Chan, c.val < s.cfg.n.count →
          rd (microSteps j (acceptStrobe s)).pwm c = if 4 * c.val + 4 ≤ j then rd v.pwm c else rd s.pwm c
end

