-- ==== Sys2Proof/Laws/Decode.lean ====
section
/-! SUPPORT. The fields of an event word, and the rows of the opcode map in terms of the fields. -/

namespace Sys2Proof

theorem append_inj {m n : Nat} {a b : BitVec m} {c d : BitVec n} : a ++ c = b ++ d ↔ a = b ∧ c = d := by
  refine ⟨fun h => ⟨?_, ?_⟩, fun ⟨h, k⟩ => by rw [h, k]⟩
  · simpa [BitVec.extractLsb'_append_eq_left] using congrArg (fun z => z.extractLsb' n m) h
  · simpa [BitVec.extractLsb'_append_eq_right] using congrArg (fun z => z.extractLsb' 0 n) h

theorem eventWord_inj {a b a' b' : BitVec 4} {c c' : BitVec 32} :
    eventWord a b c = eventWord a' b' c' ↔ a = a' ∧ b = b' ∧ c = c' := by
  unfold eventWord
  rw [append_inj, append_inj, and_assoc]

/-- A word is its fields. -/
theorem eventWord_fields (w : EventWord) : eventWord (opOf w) (chOf w) (dataOf w) = w := by
  unfold eventWord opOf chOf dataOf
  rw [BitVec.extractLsb'_append_extractLsb'_eq_extractLsb' (by rfl),
    BitVec.extractLsb'_append_extractLsb'_eq_extractLsb' (by rfl)]
  simp

@[simp] theorem opOf_eventWord (a b : BitVec 4) (c : BitVec 32) : opOf (eventWord a b c) = a :=
  (eventWord_inj.1 (eventWord_fields (eventWord a b c))).1

@[simp] theorem chOf_eventWord (a b : BitVec 4) (c : BitVec 32) : chOf (eventWord a b c) = b :=
  (eventWord_inj.1 (eventWord_fields (eventWord a b c))).2.1

@[simp] theorem dataOf_eventWord (a b : BitVec 4) (c : BitVec 32) : dataOf (eventWord a b c) = c :=
  (eventWord_inj.1 (eventWord_fields (eventWord a b c))).2.2

theorem eventWord_and (a b a' b' : BitVec 4) (c c' : BitVec 32) :
    eventWord a b c &&& eventWord a' b' c' = eventWord (a &&& a') (b &&& b') (c &&& c') := by
  unfold eventWord
  rw [← BitVec.and_append, ← BitVec.and_append]

/-- A row's shape, field by field. -/
theorem fits_iff (r : Row) (w : EventWord) :
    r.fits w = true ↔ opOf w &&& opOf r.mask = opOf r.pattern
      ∧ chOf w &&& chOf r.mask = chOf r.pattern ∧ dataOf w &&& dataOf r.mask = dataOf r.pattern := by
  rw [Row.fits, beq_iff_eq]
  conv_lhs =>
    rw [← eventWord_fields w, ← eventWord_fields r.mask, ← eventWord_fields r.pattern]
  rw [eventWord_and, eventWord_inj]

/-- Masking all but the low `n` bits away leaves zero exactly when those bits are zero. -/
theorem high_zero_iff {m n : Nat} (x : BitVec (m + n)) :
    x &&& (BitVec.allOnes m ++ 0#n) = 0 ↔ x.extractLsb' n m = 0 := by
  have h : x = x.extractLsb' n m ++ x.extractLsb' 0 n := by
    rw [BitVec.extractLsb'_append_extractLsb'_eq_extractLsb' (by simp)]
    simp
  have z : (0 : BitVec (m + n)) = 0#m ++ 0#n := by simp
  constructor
  · intro k
    rw [h, BitVec.and_append, z, append_inj] at k
    simpa using k.1
  · intro k
    rw [h, BitVec.and_append, k, z]
    simp

/-- A word whose high bits are zero is its low bits. -/
theorem low_of_high_zero {m n : Nat} (x : BitVec (m + n)) (h : x.extractLsb' n m = 0) :
    0#m ++ x.extractLsb' 0 n = x := by
  have k : 0#m = x.extractLsb' n m := h.symm
  rw [k, BitVec.extractLsb'_append_extractLsb'_eq_extractLsb' (by simp)]
  simp

theorem fits_nop (w : EventWord) : rowNop.fits w = true ↔ opOf w = 0 ∧ chOf w = 0 ∧ dataOf w = 0 := by
  rw [fits_iff]
  change _ &&& BitVec.allOnes 4 = 0#4 ∧ _ &&& BitVec.allOnes 4 = 0#4 ∧ _ &&& BitVec.allOnes 32 = 0#32 ↔ _
  simp only [BitVec.and_allOnes]; rfl

theorem fits_settw (w : EventWord) : rowSettw.fits w = true ↔ opOf w = 1 := by
  rw [fits_iff]
  change _ &&& BitVec.allOnes 4 = 1#4 ∧ _ &&& 0#4 = 0#4 ∧ _ &&& 0#32 = 0#32 ↔ _
  simp only [BitVec.and_allOnes, BitVec.and_zero, and_true]; rfl

theorem fits_setfrq (w : EventWord) :
    rowSetfrq.fits w = true ↔ opOf w = 2 ∧ (dataOf w).extractLsb' 10 22 = 0 := by
  rw [fits_iff, ← high_zero_iff (m := 22) (n := 10)]
  change _ &&& BitVec.allOnes 4 = 2#4 ∧ _ &&& 0#4 = 0#4 ∧ _ ↔ _
  simp only [BitVec.and_allOnes, BitVec.and_zero, true_and]
  rfl

theorem fits_wavsw (w : EventWord) :
    rowWavsw.fits w = true ↔ opOf w = 3 ∧ (dataOf w).extractLsb' 2 30 = 0 := by
  rw [fits_iff, ← high_zero_iff (m := 30) (n := 2)]
  change _ &&& BitVec.allOnes 4 = 3#4 ∧ _ &&& 0#4 = 0#4 ∧ _ ↔ _
  simp only [BitVec.and_allOnes, BitVec.and_zero, true_and]
  rfl

theorem fits_setdep (w : EventWord) :
    rowSetdep.fits w = true ↔ opOf w = 4 ∧ (dataOf w).extractLsb' 11 21 = 0 := by
  rw [fits_iff, ← high_zero_iff (m := 21) (n := 11)]
  change _ &&& BitVec.allOnes 4 = 4#4 ∧ _ &&& 0#4 = 0#4 ∧ _ ↔ _
  simp only [BitVec.and_allOnes, BitVec.and_zero, true_and]
  rfl

theorem fits_tick (w : EventWord) : rowTick.fits w = true ↔ opOf w = 8 ∧ chOf w = 0 ∧ dataOf w = 0 := by
  rw [fits_iff]
  change _ &&& BitVec.allOnes 4 = 8#4 ∧ _ &&& BitVec.allOnes 4 = 0#4 ∧ _ &&& BitVec.allOnes 32 = 0#32 ↔ _
  simp only [BitVec.and_allOnes]; rfl

theorem fits_syncsmp (w : EventWord) :
    rowSyncsmp.fits w = true ↔ opOf w = 9 ∧ chOf w = 0 ∧ (dataOf w).extractLsb' 4 28 = 0 := by
  rw [fits_iff, ← high_zero_iff (m := 28) (n := 4)]
  change _ &&& BitVec.allOnes 4 = 9#4 ∧ _ &&& BitVec.allOnes 4 = 0#4 ∧ _ ↔ _
  simp only [BitVec.and_allOnes]
  rfl

theorem judge_legal {k : Cfg} {i : Instr} (h : illegal k i = none) : judge k i = .ok i := by
  simp [judge, h]

theorem judge_illegal {k : Cfg} {i : Instr} {r : IllReason} (h : illegal k i = some r) :
    judge k i = .error r := by
  simp [judge, h]

end Sys2Proof
end

