-- ==== Sys2Proof/Laws/State.lean ====
section
/-! SUPPORT. One lemma per field per update of the state, so that no proof unfolds a record update, and the two laws of
the indexed registers. -/

namespace Sys2Proof

@[simp] theorem rd_wr_same {α : Type} (r : Vector α 4) (c : Chan) (v : α) : rd (wr r c v) c = v := by
  simp [rd, wr]

theorem rd_wr_other {α : Type} (r : Vector α 4) (c d : Chan) (v : α) (h : d ≠ c) :
    rd (wr r c v) d = rd r d := by
  simp only [rd, wr]
  exact Vector.getElem_set_ne _ _ (fun e => h (Fin.ext e.symm))

theorem rd_wr {α : Type} (r : Vector α 4) (c d : Chan) (v : α) :
    rd (wr r c v) d = if d = c then v else rd r d := by
  by_cases h : d = c
  · subst h; simp
  · simp [h, rd_wr_other r c d v h]

@[simp] theorem wr_rd_self {α : Type} (r : Vector α 4) (c : Chan) : wr r c (rd r c) = r := by
  simp [rd, wr]

/-- Two register arrays that read the same at every channel are equal. -/
theorem ext_rd {α : Type} {r q : Vector α 4} (h : ∀ c, rd r c = rd q c) : r = q :=
  Vector.ext fun i hi => h ⟨i, hi⟩

theorem rd_replicate {α : Type} (x : α) (c : Chan) : rd (#v[x, x, x, x]) c = x := by
  fin_cases c <;> rfl

namespace Machine

variable (s : State)

@[simp] theorem State.setAcc_cfg (c : Chan) (v : Word) : (s.setAcc c v).cfg = s.cfg := rfl
@[simp] theorem State.setAcc_acc (c : Chan) (v : Word) : (s.setAcc c v).acc = wr s.acc c v := rfl
@[simp] theorem State.setAcc_tw (c : Chan) (v : Word) : (s.setAcc c v).tw = s.tw := rfl
@[simp] theorem State.setAcc_waveRef (c : Chan) (v : Word) : (s.setAcc c v).waveRef = s.waveRef := rfl
@[simp] theorem State.setAcc_lastWaveIndex (c : Chan) (v : Word) : (s.setAcc c v).lastWaveIndex = s.lastWaveIndex := rfl
@[simp] theorem State.setAcc_depth (c : Chan) (v : Word) : (s.setAcc c v).depth = s.depth := rfl
@[simp] theorem State.setAcc_syncLastLevel (c : Chan) (v : Word) : (s.setAcc c v).syncLastLevel = s.syncLastLevel := rfl
@[simp] theorem State.setAcc_pwm (c : Chan) (v : Word) : (s.setAcc c v).pwm = s.pwm := rfl
@[simp] theorem State.setAcc_tickCnt (c : Chan) (v : Word) : (s.setAcc c v).tickCnt = s.tickCnt := rfl
@[simp] theorem State.setAcc_slowCnt (c : Chan) (v : Word) : (s.setAcc c v).slowCnt = s.slowCnt := rfl
@[simp] theorem State.setAcc_phase (c : Chan) (v : Word) : (s.setAcc c v).phase = s.phase := rfl
@[simp] theorem State.setAcc_ci (c : Chan) (v : Word) : (s.setAcc c v).ci = s.ci := rfl
@[simp] theorem State.setAcc_offsetQ (c : Chan) (v : Word) : (s.setAcc c v).offsetQ = s.offsetQ := rfl
@[simp] theorem State.setAcc_sampleQ (c : Chan) (v : Word) : (s.setAcc c v).sampleQ = s.sampleQ := rfl
@[simp] theorem State.setAcc_outQ (c : Chan) (v : Word) : (s.setAcc c v).outQ = s.outQ := rfl
@[simp] theorem State.setAcc_out (c : Chan) (v : Word) : (s.setAcc c v).out = s.out := rfl
@[simp] theorem State.setAcc_freeIdx (c : Chan) (v : Word) : (s.setAcc c v).freeIdx = s.freeIdx := rfl
@[simp] theorem State.setAcc_inbox (c : Chan) (v : Word) : (s.setAcc c v).inbox = s.inbox := rfl
@[simp] theorem State.setAcc_pos (c : Chan) (v : Word) : (s.setAcc c v).pos = s.pos := rfl

@[simp] theorem State.setTw_cfg (c : Chan) (v : Word) : (s.setTw c v).cfg = s.cfg := rfl
@[simp] theorem State.setTw_acc (c : Chan) (v : Word) : (s.setTw c v).acc = s.acc := rfl
@[simp] theorem State.setTw_tw (c : Chan) (v : Word) : (s.setTw c v).tw = wr s.tw c v := rfl
@[simp] theorem State.setTw_waveRef (c : Chan) (v : Word) : (s.setTw c v).waveRef = s.waveRef := rfl
@[simp] theorem State.setTw_lastWaveIndex (c : Chan) (v : Word) : (s.setTw c v).lastWaveIndex = s.lastWaveIndex := rfl
@[simp] theorem State.setTw_depth (c : Chan) (v : Word) : (s.setTw c v).depth = s.depth := rfl
@[simp] theorem State.setTw_syncLastLevel (c : Chan) (v : Word) : (s.setTw c v).syncLastLevel = s.syncLastLevel := rfl
@[simp] theorem State.setTw_pwm (c : Chan) (v : Word) : (s.setTw c v).pwm = s.pwm := rfl
@[simp] theorem State.setTw_tickCnt (c : Chan) (v : Word) : (s.setTw c v).tickCnt = s.tickCnt := rfl
@[simp] theorem State.setTw_slowCnt (c : Chan) (v : Word) : (s.setTw c v).slowCnt = s.slowCnt := rfl
@[simp] theorem State.setTw_phase (c : Chan) (v : Word) : (s.setTw c v).phase = s.phase := rfl
@[simp] theorem State.setTw_ci (c : Chan) (v : Word) : (s.setTw c v).ci = s.ci := rfl
@[simp] theorem State.setTw_offsetQ (c : Chan) (v : Word) : (s.setTw c v).offsetQ = s.offsetQ := rfl
@[simp] theorem State.setTw_sampleQ (c : Chan) (v : Word) : (s.setTw c v).sampleQ = s.sampleQ := rfl
@[simp] theorem State.setTw_outQ (c : Chan) (v : Word) : (s.setTw c v).outQ = s.outQ := rfl
@[simp] theorem State.setTw_out (c : Chan) (v : Word) : (s.setTw c v).out = s.out := rfl
@[simp] theorem State.setTw_freeIdx (c : Chan) (v : Word) : (s.setTw c v).freeIdx = s.freeIdx := rfl
@[simp] theorem State.setTw_inbox (c : Chan) (v : Word) : (s.setTw c v).inbox = s.inbox := rfl
@[simp] theorem State.setTw_pos (c : Chan) (v : Word) : (s.setTw c v).pos = s.pos := rfl

@[simp] theorem State.setWave_cfg (c : Chan) (w : Wave) : (s.setWave c w).cfg = s.cfg := rfl
@[simp] theorem State.setWave_acc (c : Chan) (w : Wave) : (s.setWave c w).acc = s.acc := rfl
@[simp] theorem State.setWave_tw (c : Chan) (w : Wave) : (s.setWave c w).tw = s.tw := rfl
@[simp] theorem State.setWave_waveRef (c : Chan) (w : Wave) : (s.setWave c w).waveRef = wr s.waveRef c w := rfl
@[simp] theorem State.setWave_lastWaveIndex (c : Chan) (w : Wave) : (s.setWave c w).lastWaveIndex = wr s.lastWaveIndex c w := rfl
@[simp] theorem State.setWave_depth (c : Chan) (w : Wave) : (s.setWave c w).depth = s.depth := rfl
@[simp] theorem State.setWave_syncLastLevel (c : Chan) (w : Wave) : (s.setWave c w).syncLastLevel = s.syncLastLevel := rfl
@[simp] theorem State.setWave_pwm (c : Chan) (w : Wave) : (s.setWave c w).pwm = s.pwm := rfl
@[simp] theorem State.setWave_tickCnt (c : Chan) (w : Wave) : (s.setWave c w).tickCnt = s.tickCnt := rfl
@[simp] theorem State.setWave_slowCnt (c : Chan) (w : Wave) : (s.setWave c w).slowCnt = s.slowCnt := rfl
@[simp] theorem State.setWave_phase (c : Chan) (w : Wave) : (s.setWave c w).phase = s.phase := rfl
@[simp] theorem State.setWave_ci (c : Chan) (w : Wave) : (s.setWave c w).ci = s.ci := rfl
@[simp] theorem State.setWave_offsetQ (c : Chan) (w : Wave) : (s.setWave c w).offsetQ = s.offsetQ := rfl
@[simp] theorem State.setWave_sampleQ (c : Chan) (w : Wave) : (s.setWave c w).sampleQ = s.sampleQ := rfl
@[simp] theorem State.setWave_outQ (c : Chan) (w : Wave) : (s.setWave c w).outQ = s.outQ := rfl
@[simp] theorem State.setWave_out (c : Chan) (w : Wave) : (s.setWave c w).out = s.out := rfl
@[simp] theorem State.setWave_freeIdx (c : Chan) (w : Wave) : (s.setWave c w).freeIdx = s.freeIdx := rfl
@[simp] theorem State.setWave_inbox (c : Chan) (w : Wave) : (s.setWave c w).inbox = s.inbox := rfl
@[simp] theorem State.setWave_pos (c : Chan) (w : Wave) : (s.setWave c w).pos = s.pos := rfl

@[simp] theorem State.setDepth_cfg (c : Chan) (d : BitVec 11) : (s.setDepth c d).cfg = s.cfg := rfl
@[simp] theorem State.setDepth_acc (c : Chan) (d : BitVec 11) : (s.setDepth c d).acc = s.acc := rfl
@[simp] theorem State.setDepth_tw (c : Chan) (d : BitVec 11) : (s.setDepth c d).tw = s.tw := rfl
@[simp] theorem State.setDepth_waveRef (c : Chan) (d : BitVec 11) : (s.setDepth c d).waveRef = s.waveRef := rfl
@[simp] theorem State.setDepth_lastWaveIndex (c : Chan) (d : BitVec 11) : (s.setDepth c d).lastWaveIndex = s.lastWaveIndex := rfl
@[simp] theorem State.setDepth_depth (c : Chan) (d : BitVec 11) : (s.setDepth c d).depth = wr s.depth c d := rfl
@[simp] theorem State.setDepth_syncLastLevel (c : Chan) (d : BitVec 11) : (s.setDepth c d).syncLastLevel = s.syncLastLevel := rfl
@[simp] theorem State.setDepth_pwm (c : Chan) (d : BitVec 11) : (s.setDepth c d).pwm = s.pwm := rfl
@[simp] theorem State.setDepth_tickCnt (c : Chan) (d : BitVec 11) : (s.setDepth c d).tickCnt = s.tickCnt := rfl
@[simp] theorem State.setDepth_slowCnt (c : Chan) (d : BitVec 11) : (s.setDepth c d).slowCnt = s.slowCnt := rfl
@[simp] theorem State.setDepth_phase (c : Chan) (d : BitVec 11) : (s.setDepth c d).phase = s.phase := rfl
@[simp] theorem State.setDepth_ci (c : Chan) (d : BitVec 11) : (s.setDepth c d).ci = s.ci := rfl
@[simp] theorem State.setDepth_offsetQ (c : Chan) (d : BitVec 11) : (s.setDepth c d).offsetQ = s.offsetQ := rfl
@[simp] theorem State.setDepth_sampleQ (c : Chan) (d : BitVec 11) : (s.setDepth c d).sampleQ = s.sampleQ := rfl
@[simp] theorem State.setDepth_outQ (c : Chan) (d : BitVec 11) : (s.setDepth c d).outQ = s.outQ := rfl
@[simp] theorem State.setDepth_out (c : Chan) (d : BitVec 11) : (s.setDepth c d).out = s.out := rfl
@[simp] theorem State.setDepth_freeIdx (c : Chan) (d : BitVec 11) : (s.setDepth c d).freeIdx = s.freeIdx := rfl
@[simp] theorem State.setDepth_inbox (c : Chan) (d : BitVec 11) : (s.setDepth c d).inbox = s.inbox := rfl
@[simp] theorem State.setDepth_pos (c : Chan) (d : BitVec 11) : (s.setDepth c d).pos = s.pos := rfl

@[simp] theorem State.setSyncLevel_cfg (c : Chan) (l : Bool) : (s.setSyncLevel c l).cfg = s.cfg := rfl
@[simp] theorem State.setSyncLevel_acc (c : Chan) (l : Bool) : (s.setSyncLevel c l).acc = s.acc := rfl
@[simp] theorem State.setSyncLevel_tw (c : Chan) (l : Bool) : (s.setSyncLevel c l).tw = s.tw := rfl
@[simp] theorem State.setSyncLevel_waveRef (c : Chan) (l : Bool) : (s.setSyncLevel c l).waveRef = s.waveRef := rfl
@[simp] theorem State.setSyncLevel_lastWaveIndex (c : Chan) (l : Bool) : (s.setSyncLevel c l).lastWaveIndex = s.lastWaveIndex := rfl
@[simp] theorem State.setSyncLevel_depth (c : Chan) (l : Bool) : (s.setSyncLevel c l).depth = s.depth := rfl
@[simp] theorem State.setSyncLevel_syncLastLevel (c : Chan) (l : Bool) : (s.setSyncLevel c l).syncLastLevel = wr s.syncLastLevel c l := rfl
@[simp] theorem State.setSyncLevel_pwm (c : Chan) (l : Bool) : (s.setSyncLevel c l).pwm = s.pwm := rfl
@[simp] theorem State.setSyncLevel_tickCnt (c : Chan) (l : Bool) : (s.setSyncLevel c l).tickCnt = s.tickCnt := rfl
@[simp] theorem State.setSyncLevel_slowCnt (c : Chan) (l : Bool) : (s.setSyncLevel c l).slowCnt = s.slowCnt := rfl
@[simp] theorem State.setSyncLevel_phase (c : Chan) (l : Bool) : (s.setSyncLevel c l).phase = s.phase := rfl
@[simp] theorem State.setSyncLevel_ci (c : Chan) (l : Bool) : (s.setSyncLevel c l).ci = s.ci := rfl
@[simp] theorem State.setSyncLevel_offsetQ (c : Chan) (l : Bool) : (s.setSyncLevel c l).offsetQ = s.offsetQ := rfl
@[simp] theorem State.setSyncLevel_sampleQ (c : Chan) (l : Bool) : (s.setSyncLevel c l).sampleQ = s.sampleQ := rfl
@[simp] theorem State.setSyncLevel_outQ (c : Chan) (l : Bool) : (s.setSyncLevel c l).outQ = s.outQ := rfl
@[simp] theorem State.setSyncLevel_out (c : Chan) (l : Bool) : (s.setSyncLevel c l).out = s.out := rfl
@[simp] theorem State.setSyncLevel_freeIdx (c : Chan) (l : Bool) : (s.setSyncLevel c l).freeIdx = s.freeIdx := rfl
@[simp] theorem State.setSyncLevel_inbox (c : Chan) (l : Bool) : (s.setSyncLevel c l).inbox = s.inbox := rfl
@[simp] theorem State.setSyncLevel_pos (c : Chan) (l : Bool) : (s.setSyncLevel c l).pos = s.pos := rfl

@[simp] theorem State.pwmWrite_cfg (c : Chan) (v : Byte) : (s.pwmWrite c v).cfg = s.cfg := rfl
@[simp] theorem State.pwmWrite_acc (c : Chan) (v : Byte) : (s.pwmWrite c v).acc = s.acc := rfl
@[simp] theorem State.pwmWrite_tw (c : Chan) (v : Byte) : (s.pwmWrite c v).tw = s.tw := rfl
@[simp] theorem State.pwmWrite_waveRef (c : Chan) (v : Byte) : (s.pwmWrite c v).waveRef = s.waveRef := rfl
@[simp] theorem State.pwmWrite_lastWaveIndex (c : Chan) (v : Byte) : (s.pwmWrite c v).lastWaveIndex = s.lastWaveIndex := rfl
@[simp] theorem State.pwmWrite_depth (c : Chan) (v : Byte) : (s.pwmWrite c v).depth = s.depth := rfl
@[simp] theorem State.pwmWrite_syncLastLevel (c : Chan) (v : Byte) : (s.pwmWrite c v).syncLastLevel = s.syncLastLevel := rfl
@[simp] theorem State.pwmWrite_pwm (c : Chan) (v : Byte) : (s.pwmWrite c v).pwm = wr s.pwm c v := rfl
@[simp] theorem State.pwmWrite_tickCnt (c : Chan) (v : Byte) : (s.pwmWrite c v).tickCnt = s.tickCnt := rfl
@[simp] theorem State.pwmWrite_slowCnt (c : Chan) (v : Byte) : (s.pwmWrite c v).slowCnt = s.slowCnt := rfl
@[simp] theorem State.pwmWrite_phase (c : Chan) (v : Byte) : (s.pwmWrite c v).phase = s.phase := rfl
@[simp] theorem State.pwmWrite_ci (c : Chan) (v : Byte) : (s.pwmWrite c v).ci = s.ci := rfl
@[simp] theorem State.pwmWrite_offsetQ (c : Chan) (v : Byte) : (s.pwmWrite c v).offsetQ = s.offsetQ := rfl
@[simp] theorem State.pwmWrite_sampleQ (c : Chan) (v : Byte) : (s.pwmWrite c v).sampleQ = s.sampleQ := rfl
@[simp] theorem State.pwmWrite_outQ (c : Chan) (v : Byte) : (s.pwmWrite c v).outQ = s.outQ := rfl
@[simp] theorem State.pwmWrite_out (c : Chan) (v : Byte) : (s.pwmWrite c v).out = s.out := rfl
@[simp] theorem State.pwmWrite_freeIdx (c : Chan) (v : Byte) : (s.pwmWrite c v).freeIdx = s.freeIdx := rfl
@[simp] theorem State.pwmWrite_inbox (c : Chan) (v : Byte) : (s.pwmWrite c v).inbox = s.inbox := rfl
@[simp] theorem State.pwmWrite_pos (c : Chan) (v : Byte) : (s.pwmWrite c v).pos = s.pos := rfl

@[simp] theorem State.setCounters_cfg (t u : Nat) : (s.setCounters t u).cfg = s.cfg := rfl
@[simp] theorem State.setCounters_acc (t u : Nat) : (s.setCounters t u).acc = s.acc := rfl
@[simp] theorem State.setCounters_tw (t u : Nat) : (s.setCounters t u).tw = s.tw := rfl
@[simp] theorem State.setCounters_waveRef (t u : Nat) : (s.setCounters t u).waveRef = s.waveRef := rfl
@[simp] theorem State.setCounters_lastWaveIndex (t u : Nat) : (s.setCounters t u).lastWaveIndex = s.lastWaveIndex := rfl
@[simp] theorem State.setCounters_depth (t u : Nat) : (s.setCounters t u).depth = s.depth := rfl
@[simp] theorem State.setCounters_syncLastLevel (t u : Nat) : (s.setCounters t u).syncLastLevel = s.syncLastLevel := rfl
@[simp] theorem State.setCounters_pwm (t u : Nat) : (s.setCounters t u).pwm = s.pwm := rfl
@[simp] theorem State.setCounters_tickCnt (t u : Nat) : (s.setCounters t u).tickCnt = t := rfl
@[simp] theorem State.setCounters_slowCnt (t u : Nat) : (s.setCounters t u).slowCnt = u := rfl
@[simp] theorem State.setCounters_phase (t u : Nat) : (s.setCounters t u).phase = s.phase := rfl
@[simp] theorem State.setCounters_ci (t u : Nat) : (s.setCounters t u).ci = s.ci := rfl
@[simp] theorem State.setCounters_offsetQ (t u : Nat) : (s.setCounters t u).offsetQ = s.offsetQ := rfl
@[simp] theorem State.setCounters_sampleQ (t u : Nat) : (s.setCounters t u).sampleQ = s.sampleQ := rfl
@[simp] theorem State.setCounters_outQ (t u : Nat) : (s.setCounters t u).outQ = s.outQ := rfl
@[simp] theorem State.setCounters_out (t u : Nat) : (s.setCounters t u).out = s.out := rfl
@[simp] theorem State.setCounters_freeIdx (t u : Nat) : (s.setCounters t u).freeIdx = s.freeIdx := rfl
@[simp] theorem State.setCounters_inbox (t u : Nat) : (s.setCounters t u).inbox = s.inbox := rfl
@[simp] theorem State.setCounters_pos (t u : Nat) : (s.setCounters t u).pos = s.pos := rfl

@[simp] theorem State.setFsm_cfg (p : Phase) (c : Chan) : (s.setFsm p c).cfg = s.cfg := rfl
@[simp] theorem State.setFsm_acc (p : Phase) (c : Chan) : (s.setFsm p c).acc = s.acc := rfl
@[simp] theorem State.setFsm_tw (p : Phase) (c : Chan) : (s.setFsm p c).tw = s.tw := rfl
@[simp] theorem State.setFsm_waveRef (p : Phase) (c : Chan) : (s.setFsm p c).waveRef = s.waveRef := rfl
@[simp] theorem State.setFsm_lastWaveIndex (p : Phase) (c : Chan) : (s.setFsm p c).lastWaveIndex = s.lastWaveIndex := rfl
@[simp] theorem State.setFsm_depth (p : Phase) (c : Chan) : (s.setFsm p c).depth = s.depth := rfl
@[simp] theorem State.setFsm_syncLastLevel (p : Phase) (c : Chan) : (s.setFsm p c).syncLastLevel = s.syncLastLevel := rfl
@[simp] theorem State.setFsm_pwm (p : Phase) (c : Chan) : (s.setFsm p c).pwm = s.pwm := rfl
@[simp] theorem State.setFsm_tickCnt (p : Phase) (c : Chan) : (s.setFsm p c).tickCnt = s.tickCnt := rfl
@[simp] theorem State.setFsm_slowCnt (p : Phase) (c : Chan) : (s.setFsm p c).slowCnt = s.slowCnt := rfl
@[simp] theorem State.setFsm_phase (p : Phase) (c : Chan) : (s.setFsm p c).phase = p := rfl
@[simp] theorem State.setFsm_ci (p : Phase) (c : Chan) : (s.setFsm p c).ci = c := rfl
@[simp] theorem State.setFsm_offsetQ (p : Phase) (c : Chan) : (s.setFsm p c).offsetQ = s.offsetQ := rfl
@[simp] theorem State.setFsm_sampleQ (p : Phase) (c : Chan) : (s.setFsm p c).sampleQ = s.sampleQ := rfl
@[simp] theorem State.setFsm_outQ (p : Phase) (c : Chan) : (s.setFsm p c).outQ = s.outQ := rfl
@[simp] theorem State.setFsm_out (p : Phase) (c : Chan) : (s.setFsm p c).out = s.out := rfl
@[simp] theorem State.setFsm_freeIdx (p : Phase) (c : Chan) : (s.setFsm p c).freeIdx = s.freeIdx := rfl
@[simp] theorem State.setFsm_inbox (p : Phase) (c : Chan) : (s.setFsm p c).inbox = s.inbox := rfl
@[simp] theorem State.setFsm_pos (p : Phase) (c : Chan) : (s.setFsm p c).pos = s.pos := rfl

@[simp] theorem State.setOffsetQ_cfg (v : Byte) : (s.setOffsetQ v).cfg = s.cfg := rfl
@[simp] theorem State.setOffsetQ_acc (v : Byte) : (s.setOffsetQ v).acc = s.acc := rfl
@[simp] theorem State.setOffsetQ_tw (v : Byte) : (s.setOffsetQ v).tw = s.tw := rfl
@[simp] theorem State.setOffsetQ_waveRef (v : Byte) : (s.setOffsetQ v).waveRef = s.waveRef := rfl
@[simp] theorem State.setOffsetQ_lastWaveIndex (v : Byte) : (s.setOffsetQ v).lastWaveIndex = s.lastWaveIndex := rfl
@[simp] theorem State.setOffsetQ_depth (v : Byte) : (s.setOffsetQ v).depth = s.depth := rfl
@[simp] theorem State.setOffsetQ_syncLastLevel (v : Byte) : (s.setOffsetQ v).syncLastLevel = s.syncLastLevel := rfl
@[simp] theorem State.setOffsetQ_pwm (v : Byte) : (s.setOffsetQ v).pwm = s.pwm := rfl
@[simp] theorem State.setOffsetQ_tickCnt (v : Byte) : (s.setOffsetQ v).tickCnt = s.tickCnt := rfl
@[simp] theorem State.setOffsetQ_slowCnt (v : Byte) : (s.setOffsetQ v).slowCnt = s.slowCnt := rfl
@[simp] theorem State.setOffsetQ_phase (v : Byte) : (s.setOffsetQ v).phase = s.phase := rfl
@[simp] theorem State.setOffsetQ_ci (v : Byte) : (s.setOffsetQ v).ci = s.ci := rfl
@[simp] theorem State.setOffsetQ_offsetQ (v : Byte) : (s.setOffsetQ v).offsetQ = v := rfl
@[simp] theorem State.setOffsetQ_sampleQ (v : Byte) : (s.setOffsetQ v).sampleQ = s.sampleQ := rfl
@[simp] theorem State.setOffsetQ_outQ (v : Byte) : (s.setOffsetQ v).outQ = s.outQ := rfl
@[simp] theorem State.setOffsetQ_out (v : Byte) : (s.setOffsetQ v).out = s.out := rfl
@[simp] theorem State.setOffsetQ_freeIdx (v : Byte) : (s.setOffsetQ v).freeIdx = s.freeIdx := rfl
@[simp] theorem State.setOffsetQ_inbox (v : Byte) : (s.setOffsetQ v).inbox = s.inbox := rfl
@[simp] theorem State.setOffsetQ_pos (v : Byte) : (s.setOffsetQ v).pos = s.pos := rfl

@[simp] theorem State.setSampleQ_cfg (v : Byte) : (s.setSampleQ v).cfg = s.cfg := rfl
@[simp] theorem State.setSampleQ_acc (v : Byte) : (s.setSampleQ v).acc = s.acc := rfl
@[simp] theorem State.setSampleQ_tw (v : Byte) : (s.setSampleQ v).tw = s.tw := rfl
@[simp] theorem State.setSampleQ_waveRef (v : Byte) : (s.setSampleQ v).waveRef = s.waveRef := rfl
@[simp] theorem State.setSampleQ_lastWaveIndex (v : Byte) : (s.setSampleQ v).lastWaveIndex = s.lastWaveIndex := rfl
@[simp] theorem State.setSampleQ_depth (v : Byte) : (s.setSampleQ v).depth = s.depth := rfl
@[simp] theorem State.setSampleQ_syncLastLevel (v : Byte) : (s.setSampleQ v).syncLastLevel = s.syncLastLevel := rfl
@[simp] theorem State.setSampleQ_pwm (v : Byte) : (s.setSampleQ v).pwm = s.pwm := rfl
@[simp] theorem State.setSampleQ_tickCnt (v : Byte) : (s.setSampleQ v).tickCnt = s.tickCnt := rfl
@[simp] theorem State.setSampleQ_slowCnt (v : Byte) : (s.setSampleQ v).slowCnt = s.slowCnt := rfl
@[simp] theorem State.setSampleQ_phase (v : Byte) : (s.setSampleQ v).phase = s.phase := rfl
@[simp] theorem State.setSampleQ_ci (v : Byte) : (s.setSampleQ v).ci = s.ci := rfl
@[simp] theorem State.setSampleQ_offsetQ (v : Byte) : (s.setSampleQ v).offsetQ = s.offsetQ := rfl
@[simp] theorem State.setSampleQ_sampleQ (v : Byte) : (s.setSampleQ v).sampleQ = v := rfl
@[simp] theorem State.setSampleQ_outQ (v : Byte) : (s.setSampleQ v).outQ = s.outQ := rfl
@[simp] theorem State.setSampleQ_out (v : Byte) : (s.setSampleQ v).out = s.out := rfl
@[simp] theorem State.setSampleQ_freeIdx (v : Byte) : (s.setSampleQ v).freeIdx = s.freeIdx := rfl
@[simp] theorem State.setSampleQ_inbox (v : Byte) : (s.setSampleQ v).inbox = s.inbox := rfl
@[simp] theorem State.setSampleQ_pos (v : Byte) : (s.setSampleQ v).pos = s.pos := rfl

@[simp] theorem State.setOutQ_cfg (v : Byte) : (s.setOutQ v).cfg = s.cfg := rfl
@[simp] theorem State.setOutQ_acc (v : Byte) : (s.setOutQ v).acc = s.acc := rfl
@[simp] theorem State.setOutQ_tw (v : Byte) : (s.setOutQ v).tw = s.tw := rfl
@[simp] theorem State.setOutQ_waveRef (v : Byte) : (s.setOutQ v).waveRef = s.waveRef := rfl
@[simp] theorem State.setOutQ_lastWaveIndex (v : Byte) : (s.setOutQ v).lastWaveIndex = s.lastWaveIndex := rfl
@[simp] theorem State.setOutQ_depth (v : Byte) : (s.setOutQ v).depth = s.depth := rfl
@[simp] theorem State.setOutQ_syncLastLevel (v : Byte) : (s.setOutQ v).syncLastLevel = s.syncLastLevel := rfl
@[simp] theorem State.setOutQ_pwm (v : Byte) : (s.setOutQ v).pwm = s.pwm := rfl
@[simp] theorem State.setOutQ_tickCnt (v : Byte) : (s.setOutQ v).tickCnt = s.tickCnt := rfl
@[simp] theorem State.setOutQ_slowCnt (v : Byte) : (s.setOutQ v).slowCnt = s.slowCnt := rfl
@[simp] theorem State.setOutQ_phase (v : Byte) : (s.setOutQ v).phase = s.phase := rfl
@[simp] theorem State.setOutQ_ci (v : Byte) : (s.setOutQ v).ci = s.ci := rfl
@[simp] theorem State.setOutQ_offsetQ (v : Byte) : (s.setOutQ v).offsetQ = s.offsetQ := rfl
@[simp] theorem State.setOutQ_sampleQ (v : Byte) : (s.setOutQ v).sampleQ = s.sampleQ := rfl
@[simp] theorem State.setOutQ_outQ (v : Byte) : (s.setOutQ v).outQ = v := rfl
@[simp] theorem State.setOutQ_out (v : Byte) : (s.setOutQ v).out = s.out := rfl
@[simp] theorem State.setOutQ_freeIdx (v : Byte) : (s.setOutQ v).freeIdx = s.freeIdx := rfl
@[simp] theorem State.setOutQ_inbox (v : Byte) : (s.setOutQ v).inbox = s.inbox := rfl
@[simp] theorem State.setOutQ_pos (v : Byte) : (s.setOutQ v).pos = s.pos := rfl

@[simp] theorem State.forgetLatches_cfg : s.forgetLatches.cfg = s.cfg := rfl
@[simp] theorem State.forgetLatches_acc : s.forgetLatches.acc = s.acc := rfl
@[simp] theorem State.forgetLatches_tw : s.forgetLatches.tw = s.tw := rfl
@[simp] theorem State.forgetLatches_waveRef : s.forgetLatches.waveRef = s.waveRef := rfl
@[simp] theorem State.forgetLatches_lastWaveIndex : s.forgetLatches.lastWaveIndex = s.lastWaveIndex := rfl
@[simp] theorem State.forgetLatches_depth : s.forgetLatches.depth = s.depth := rfl
@[simp] theorem State.forgetLatches_syncLastLevel : s.forgetLatches.syncLastLevel = s.syncLastLevel := rfl
@[simp] theorem State.forgetLatches_pwm : s.forgetLatches.pwm = s.pwm := rfl
@[simp] theorem State.forgetLatches_tickCnt : s.forgetLatches.tickCnt = s.tickCnt := rfl
@[simp] theorem State.forgetLatches_slowCnt : s.forgetLatches.slowCnt = s.slowCnt := rfl
@[simp] theorem State.forgetLatches_phase : s.forgetLatches.phase = s.phase := rfl
@[simp] theorem State.forgetLatches_ci : s.forgetLatches.ci = s.ci := rfl
@[simp] theorem State.forgetLatches_offsetQ : s.forgetLatches.offsetQ = Config.freeOffset s.freeIdx := rfl
@[simp] theorem State.forgetLatches_sampleQ : s.forgetLatches.sampleQ = Config.freeSample s.freeIdx := rfl
@[simp] theorem State.forgetLatches_outQ : s.forgetLatches.outQ = Config.freeOut s.freeIdx := rfl
@[simp] theorem State.forgetLatches_out : s.forgetLatches.out = s.out := rfl
@[simp] theorem State.forgetLatches_freeIdx : s.forgetLatches.freeIdx = s.freeIdx + 1 := rfl
@[simp] theorem State.forgetLatches_inbox : s.forgetLatches.inbox = s.inbox := rfl
@[simp] theorem State.forgetLatches_pos : s.forgetLatches.pos = s.pos := rfl

@[simp] theorem State.setOut_cfg (o : Out) : (s.setOut o).cfg = s.cfg := rfl
@[simp] theorem State.setOut_acc (o : Out) : (s.setOut o).acc = s.acc := rfl
@[simp] theorem State.setOut_tw (o : Out) : (s.setOut o).tw = s.tw := rfl
@[simp] theorem State.setOut_waveRef (o : Out) : (s.setOut o).waveRef = s.waveRef := rfl
@[simp] theorem State.setOut_lastWaveIndex (o : Out) : (s.setOut o).lastWaveIndex = s.lastWaveIndex := rfl
@[simp] theorem State.setOut_depth (o : Out) : (s.setOut o).depth = s.depth := rfl
@[simp] theorem State.setOut_syncLastLevel (o : Out) : (s.setOut o).syncLastLevel = s.syncLastLevel := rfl
@[simp] theorem State.setOut_pwm (o : Out) : (s.setOut o).pwm = s.pwm := rfl
@[simp] theorem State.setOut_tickCnt (o : Out) : (s.setOut o).tickCnt = s.tickCnt := rfl
@[simp] theorem State.setOut_slowCnt (o : Out) : (s.setOut o).slowCnt = s.slowCnt := rfl
@[simp] theorem State.setOut_phase (o : Out) : (s.setOut o).phase = s.phase := rfl
@[simp] theorem State.setOut_ci (o : Out) : (s.setOut o).ci = s.ci := rfl
@[simp] theorem State.setOut_offsetQ (o : Out) : (s.setOut o).offsetQ = s.offsetQ := rfl
@[simp] theorem State.setOut_sampleQ (o : Out) : (s.setOut o).sampleQ = s.sampleQ := rfl
@[simp] theorem State.setOut_outQ (o : Out) : (s.setOut o).outQ = s.outQ := rfl
@[simp] theorem State.setOut_out (o : Out) : (s.setOut o).out = o := rfl
@[simp] theorem State.setOut_freeIdx (o : Out) : (s.setOut o).freeIdx = s.freeIdx := rfl
@[simp] theorem State.setOut_inbox (o : Out) : (s.setOut o).inbox = s.inbox := rfl
@[simp] theorem State.setOut_pos (o : Out) : (s.setOut o).pos = s.pos := rfl

@[simp] theorem State.take_cfg (rest : List Event) : (s.take rest).cfg = s.cfg := rfl
@[simp] theorem State.take_acc (rest : List Event) : (s.take rest).acc = s.acc := rfl
@[simp] theorem State.take_tw (rest : List Event) : (s.take rest).tw = s.tw := rfl
@[simp] theorem State.take_waveRef (rest : List Event) : (s.take rest).waveRef = s.waveRef := rfl
@[simp] theorem State.take_lastWaveIndex (rest : List Event) : (s.take rest).lastWaveIndex = s.lastWaveIndex := rfl
@[simp] theorem State.take_depth (rest : List Event) : (s.take rest).depth = s.depth := rfl
@[simp] theorem State.take_syncLastLevel (rest : List Event) : (s.take rest).syncLastLevel = s.syncLastLevel := rfl
@[simp] theorem State.take_pwm (rest : List Event) : (s.take rest).pwm = s.pwm := rfl
@[simp] theorem State.take_tickCnt (rest : List Event) : (s.take rest).tickCnt = s.tickCnt := rfl
@[simp] theorem State.take_slowCnt (rest : List Event) : (s.take rest).slowCnt = s.slowCnt := rfl
@[simp] theorem State.take_phase (rest : List Event) : (s.take rest).phase = s.phase := rfl
@[simp] theorem State.take_ci (rest : List Event) : (s.take rest).ci = s.ci := rfl
@[simp] theorem State.take_offsetQ (rest : List Event) : (s.take rest).offsetQ = s.offsetQ := rfl
@[simp] theorem State.take_sampleQ (rest : List Event) : (s.take rest).sampleQ = s.sampleQ := rfl
@[simp] theorem State.take_outQ (rest : List Event) : (s.take rest).outQ = s.outQ := rfl
@[simp] theorem State.take_out (rest : List Event) : (s.take rest).out = s.out := rfl
@[simp] theorem State.take_freeIdx (rest : List Event) : (s.take rest).freeIdx = s.freeIdx := rfl
@[simp] theorem State.take_inbox (rest : List Event) : (s.take rest).inbox = rest := rfl
@[simp] theorem State.take_pos (rest : List Event) : (s.take rest).pos = s.pos + 1 := rfl

@[simp] theorem State.resetRegs_cfg : s.resetRegs.cfg = s.cfg := rfl
@[simp] theorem State.resetRegs_acc : s.resetRegs.acc = (State.resetOf s.cfg).acc := rfl
@[simp] theorem State.resetRegs_tw : s.resetRegs.tw = (State.resetOf s.cfg).tw := rfl
@[simp] theorem State.resetRegs_waveRef : s.resetRegs.waveRef = (State.resetOf s.cfg).waveRef := rfl
@[simp] theorem State.resetRegs_lastWaveIndex : s.resetRegs.lastWaveIndex = (State.resetOf s.cfg).lastWaveIndex := rfl
@[simp] theorem State.resetRegs_depth : s.resetRegs.depth = (State.resetOf s.cfg).depth := rfl
@[simp] theorem State.resetRegs_syncLastLevel : s.resetRegs.syncLastLevel = (State.resetOf s.cfg).syncLastLevel := rfl
@[simp] theorem State.resetRegs_pwm : s.resetRegs.pwm = (State.resetOf s.cfg).pwm := rfl
@[simp] theorem State.resetRegs_tickCnt : s.resetRegs.tickCnt = (State.resetOf s.cfg).tickCnt := rfl
@[simp] theorem State.resetRegs_slowCnt : s.resetRegs.slowCnt = (State.resetOf s.cfg).slowCnt := rfl
@[simp] theorem State.resetRegs_phase : s.resetRegs.phase = (State.resetOf s.cfg).phase := rfl
@[simp] theorem State.resetRegs_ci : s.resetRegs.ci = (State.resetOf s.cfg).ci := rfl
@[simp] theorem State.resetRegs_offsetQ : s.resetRegs.offsetQ = Config.freeOffset s.freeIdx := rfl
@[simp] theorem State.resetRegs_sampleQ : s.resetRegs.sampleQ = Config.freeSample s.freeIdx := rfl
@[simp] theorem State.resetRegs_outQ : s.resetRegs.outQ = Config.freeOut s.freeIdx := rfl
@[simp] theorem State.resetRegs_out : s.resetRegs.out = (State.resetOf s.cfg).out := rfl
@[simp] theorem State.resetRegs_freeIdx : s.resetRegs.freeIdx = s.freeIdx + 1 := rfl
@[simp] theorem State.resetRegs_inbox : s.resetRegs.inbox = s.inbox := rfl
@[simp] theorem State.resetRegs_pos : s.resetRegs.pos = s.pos := rfl

end Machine

end Sys2Proof
end

