-- ==== Sys2Proof/Laws/Ops.lean ====
section
/-! SUPPORT. For each shared operation one lemma that says everything it can do, and one inversion lemma per
instruction and for the step. -/

namespace Sys2Proof.Machine

theorem mem_channels (n : ChannelCount) (c : Chan) : c ∈ n.channels ↔ c.val < n.count := by
  cases n <;> fin_cases c <;> decide

theorem channels_nodup (n : ChannelCount) : n.channels.Nodup := by cases n <;> decide

/-- A legal channel field names itself. -/
theorem chan_val (n : ChannelCount) (c : BitVec 4) (h : c.toNat < n.count) : (chan c).val = c.toNat := by
  have : n.count ≤ 4 := by cases n <;> decide
  exact Nat.mod_eq_of_lt (by omega)

theorem chan_mem (n : ChannelCount) (c : BitVec 4) (h : c.toNat < n.count) : chan c ∈ n.channels := by
  rw [mem_channels, chan_val n c h]; exact h

theorem running_next {s t u : State} : running s t = .next u ↔ valid s.cfg = true ∧ t = u := by
  unfold running
  split <;> simp_all

theorem running_valid {s t : State} (h : valid s.cfg = true) : running s t = .next t := by
  simp [running, h]

theorem running_invalid {s t : State} (h : valid s.cfg = false) : running s t = .refused .invalidCfg := by
  simp [running, h]

/-- A command that answers is rejected, with only the outputs changed, or performed. -/
theorem perform_next {s t u : State} {i : Instr} :
    perform s i t = .next u ↔ valid s.cfg = true ∧
      ((illegal s.cfg i).isSome = true ∧ u = s.reject ∨ illegal s.cfg i = none ∧ u = t.setOut outLow) := by
  unfold perform
  rw [running_next]
  cases h : illegal s.cfg i <;> simp [eq_comm (a := u)]

theorem perform_legal {s t : State} {i : Instr} (h : valid s.cfg = true) (hi : illegal s.cfg i = none) :
    perform s i t = .next (t.setOut outLow) := perform_next.2 ⟨h, .inr ⟨hi, rfl⟩⟩

theorem perform_illegal {s t : State} {i : Instr} (h : valid s.cfg = true) (hi : illegal s.cfg i ≠ none) :
    perform s i t = .next s.reject :=
  perform_next.2 ⟨h, .inl ⟨Option.isSome_iff_ne_none.2 hi, rfl⟩⟩

/-- What a command does when it is legal. -/
def commandEffect (s : State) : Instr → State
  | .nop => s
  | .settw c imm => s.setTw (chan c) imm
  | .setfrq c r => s.setTw (chan c) (BitVec.ofNat 32 (tuningWord s.cfg (chan c) r.toNat))
  | .wavsw c g p => waveSwitch (chan c) g p s
  | .setdep c d => s.setDepth (chan c) d
  | .tick => s
  | .syncsmp _ => s

/-- Everything an instruction can do when it answers a next state. -/
theorem exec_next {i : Instr} {s t : State} (h : exec i s = .next t) :
    valid s.cfg = true ∧
      ((∃ r, illegal s.cfg i = some r) ∧ t = s.reject ∨
        (i = .tick ∧ t = tickAll s) ∨
        (∃ l, i = .syncsmp l ∧ levelsFit s.cfg l = true ∧ t = (sampleTriggers l s).setOut outLow) ∨
        (i ≠ .tick ∧ (∀ l, i ≠ .syncsmp l) ∧ illegal s.cfg i = none ∧
          t = (commandEffect s i).setOut outLow)) := by
  cases i with
  | tick =>
    obtain ⟨hv, ht⟩ := running_next.1 h
    exact ⟨hv, .inr (.inl ⟨rfl, ht.symm⟩)⟩
  | syncsmp l =>
    simp only [exec, execSyncsmp] at h
    split at h
    · obtain ⟨hv, ht⟩ := running_next.1 h
      exact ⟨hv, .inr (.inr (.inl ⟨l, rfl, ‹_›, ht.symm⟩))⟩
    · cases h
  | _ =>
    obtain ⟨hv, hr | hl⟩ := perform_next.1 h
    · exact ⟨hv, .inl ⟨Option.isSome_iff_exists.1 hr.1, hr.2⟩⟩
    · exact ⟨hv, .inr (.inr (.inr ⟨by simp, by simp, hl⟩))⟩

/-! One channel's tick and the whole tick (R60). -/

section Tick

variable (s : State) (c d : Chan)

/-- The value a tick writes to `acc[c]`. -/
abbrev tickAcc : Word := rd s.acc c + rd s.tw c

/-- The value a tick writes to `pwm[c]`. -/
abbrev tickPwm : Byte :=
  scaleSample (rd s.cfg.depthEn c) (romRead s.cfg (rd s.waveRef c) (offsetOf (tickAcc s c))) (rd s.depth c)

theorem tickChannel_eq : tickChannel s c = (s.setAcc c (tickAcc s c)).pwmWrite c (tickPwm s c) := rfl

/-- What serving a list of channels leaves alone. -/
theorem foldl_tickChannel_frame (l : List Chan) :
    l.foldl tickChannel s = { s with
      acc := (l.foldl tickChannel s).acc, pwm := (l.foldl tickChannel s).pwm } := by
  induction l generalizing s with
  | nil => rfl
  | cons c l ih => rw [List.foldl_cons, ih]; simp [tickChannel_eq, State.setAcc, State.pwmWrite]

theorem foldl_tickChannel (l : List Chan) (hl : l.Nodup) :
    rd (l.foldl tickChannel s).acc d = (if d ∈ l then tickAcc s d else rd s.acc d) ∧
      rd (l.foldl tickChannel s).pwm d = (if d ∈ l then tickPwm s d else rd s.pwm d) := by
  induction l generalizing s with
  | nil => simp
  | cons c l ih =>
    obtain ⟨hc, hl⟩ := List.nodup_cons.1 hl
    obtain ⟨h1, h2⟩ := ih (tickChannel s c) hl
    rw [List.foldl_cons, h1, h2]
    by_cases hd : d = c
    · subst hd
      simp [hc, tickChannel_eq]
    · simp [hd, tickChannel_eq, rd_wr, tickAcc, tickPwm]

/-- What a tick leaves alone, and the counters (R60, R67). -/
theorem tickAll_frame :
    tickAll s = { s with
      acc := (tickAll s).acc
      pwm := (tickAll s).pwm
      tickCnt := nextTick s.cfg s.tickCnt
      slowCnt := nextSlow s.cfg s.tickCnt s.slowCnt
      offsetQ := Config.freeOffset s.freeIdx
      sampleQ := Config.freeSample s.freeIdx
      outQ := Config.freeOut s.freeIdx
      out := tickOut s.cfg s.tickCnt s.slowCnt
      freeIdx := s.freeIdx + 1 } := by
  unfold tickAll
  rw [foldl_tickChannel_frame]
  rfl

theorem tickAll_acc :
    rd (tickAll s).acc c = if c ∈ s.cfg.n.channels then tickAcc s c else rd s.acc c :=
  (foldl_tickChannel s c _ (channels_nodup _)).1

theorem tickAll_pwm :
    rd (tickAll s).pwm c = if c ∈ s.cfg.n.channels then tickPwm s c else rd s.pwm c :=
  (foldl_tickChannel s c _ (channels_nodup _)).2

end Tick

/-! One sample of the triggers (R95). -/

section Sync

variable (l : BitVec 4) (s : State) (c d : Chan)

/-- The channel sees an edge in this sample (R96). -/
abbrev edge : Bool := rd s.cfg.syncEn c && levelAt l (rd s.cfg.syncSrc c) != rd s.syncLastLevel c

/-- The edge is the active one (R96). -/
abbrev activeEdge : Bool := edge l s c && levelAt l (rd s.cfg.syncSrc c) == rd s.cfg.syncPol c

/-- What sampling for a list of channels leaves alone. -/
theorem foldl_syncChannel_frame (cs : List Chan) :
    cs.foldl (syncChannel l) s = { s with
      acc := (cs.foldl (syncChannel l) s).acc
      syncLastLevel := (cs.foldl (syncChannel l) s).syncLastLevel } := by
  induction cs generalizing s with
  | nil => rfl
  | cons c cs ih =>
    rw [List.foldl_cons, ih]
    have : ∃ a y, syncChannel l s c = { s with acc := a, syncLastLevel := y } := by
      unfold syncChannel
      dsimp only
      split
      · split <;> exact ⟨_, _, rfl⟩
      · exact ⟨_, _, rfl⟩
    obtain ⟨a, y, h⟩ := this
    rw [h]

theorem syncChannel_rd :
    rd (syncChannel l s c).acc d = (if d = c ∧ activeEdge l s d then 0 else rd s.acc d) ∧
      rd (syncChannel l s c).syncLastLevel d =
        (if d = c ∧ edge l s d then levelAt l (rd s.cfg.syncSrc d) else rd s.syncLastLevel d) := by
  by_cases hd : d = c
  · subst hd
    simp only [syncChannel, activeEdge, edge]
    split <;> rename_i h
    · split <;> simp_all
    · simp_all
  · simp only [syncChannel, hd, false_and, if_false]
    split
    · split <;> simp [rd_wr, hd]
    · simp

theorem syncChannel_cfg : (syncChannel l s c).cfg = s.cfg := by
  have := foldl_syncChannel_frame l s [c]
  simp only [List.foldl_cons, List.foldl_nil] at this
  rw [this]

theorem foldl_syncChannel (cs : List Chan) (hl : cs.Nodup) :
    rd (cs.foldl (syncChannel l) s).acc d = (if d ∈ cs ∧ activeEdge l s d then 0 else rd s.acc d) ∧
      rd (cs.foldl (syncChannel l) s).syncLastLevel d =
        (if d ∈ cs ∧ edge l s d then levelAt l (rd s.cfg.syncSrc d) else rd s.syncLastLevel d) := by
  induction cs generalizing s with
  | nil => simp
  | cons c cs ih =>
    obtain ⟨hc, hl⟩ := List.nodup_cons.1 hl
    obtain ⟨h1, h2⟩ := ih (syncChannel l s c) hl
    obtain ⟨k1, k2⟩ := syncChannel_rd l s c d
    rw [List.foldl_cons, h1, h2]
    by_cases hd : d = c
    · subst hd
      simp [hc, k1, k2]
    · have e : rd (syncChannel l s c).syncLastLevel d = rd s.syncLastLevel d := by simp [k2, hd]
      have a : rd (syncChannel l s c).acc d = rd s.acc d := by simp [k1, hd]
      simp [hd, activeEdge, edge, e, a, syncChannel_cfg]

/-- What a sample leaves alone. -/
theorem sampleTriggers_frame :
    sampleTriggers l s = { s with
      acc := (sampleTriggers l s).acc, syncLastLevel := (sampleTriggers l s).syncLastLevel } :=
  foldl_syncChannel_frame l s _

theorem sampleTriggers_acc :
    rd (sampleTriggers l s).acc c =
      if c ∈ s.cfg.n.channels ∧ activeEdge l s c then 0 else rd s.acc c :=
  (foldl_syncChannel l s c _ (channels_nodup _)).1

theorem sampleTriggers_level :
    rd (sampleTriggers l s).syncLastLevel c =
      if c ∈ s.cfg.n.channels ∧ edge l s c then levelAt l (rd s.cfg.syncSrc c) else rd s.syncLastLevel c :=
  (foldl_syncChannel l s c _ (channels_nodup _)).2

/-- A sample neither reads nor writes the outputs. -/
theorem sampleTriggers_setOut (o : Out) : sampleTriggers l (s.setOut o) = (sampleTriggers l s).setOut o := by
  have one (s : State) (c : Chan) : syncChannel l (s.setOut o) c = (syncChannel l s c).setOut o := by
    by_cases h : (rd s.cfg.syncEn c && levelAt l (rd s.cfg.syncSrc c) != rd s.syncLastLevel c) = true <;>
      by_cases k : (levelAt l (rd s.cfg.syncSrc c) == rd s.cfg.syncPol c) = true <;>
      simp only [syncChannel, State.setOut, h, k, if_true] <;> rfl
  have all (cs : List Chan) (s : State) :
      cs.foldl (syncChannel l) (s.setOut o) = (cs.foldl (syncChannel l) s).setOut o := by
    induction cs generalizing s with
    | nil => rfl
    | cons c cs ih => rw [List.foldl_cons, List.foldl_cons, one, ih]
  exact all _ s

end Sync

/-! The whole machine. -/

theorem microStep_cfg (s : State) : (microStep s).cfg = s.cfg := by
  unfold microStep
  split
  case h_5 => unfold microWrite; split <;> rfl
  all_goals rfl

theorem sampleTriggers_cfg (l : BitVec 4) (s : State) : (sampleTriggers l s).cfg = s.cfg := by
  rw [sampleTriggers_frame]

theorem tickAll_cfg (s : State) : (tickAll s).cfg = s.cfg := by rw [tickAll_frame]

theorem commandEffect_cfg (s : State) (i : Instr) : (commandEffect s i).cfg = s.cfg := by
  cases i <;> simp [commandEffect, waveSwitch]
  split <;> simp

/-- No instruction writes the configuration or the ROM in it, so the canonical form of the ROM's data stays (R42). -/
theorem exec_memory_wf {i : Instr} {s t : State} (h : exec i s = .next t) (hm : s.cfg.rom.wf) :
    t.cfg.rom.wf := by
  have : t.cfg = s.cfg := by
    obtain ⟨-, ⟨-, rfl⟩ | ⟨-, rfl⟩ | ⟨l, -, -, rfl⟩ | ⟨-, -, -, rfl⟩⟩ := exec_next h
    · rfl
    · exact tickAll_cfg s
    · exact sampleTriggers_cfg l s
    · exact commandEffect_cfg s i
  rw [this]; exact hm

/-- The reset state's ROM is in canonical form. -/
theorem reset_memory_wf : State.reset.cfg.rom.wf := ⟨List.Pairwise.nil, fun _ h => by cases h⟩

/-- Everything a trace word can do when it answers a next state. -/
theorem runWord_next {w : EventWord} {s t : State} (h : runWord w s = .next t) :
    (∃ i, decodeShape w = .instr i ∧ exec i s = .next t) ∨
      (valid s.cfg = true ∧ (∃ r, decodeShape w = .illegal r) ∧ t = s.reject) := by
  unfold runWord at h
  split at h
  · exact .inl ⟨_, ‹_›, h⟩
  · exact .inr ⟨(running_next.1 h).1, ⟨_, ‹_›⟩, (running_next.1 h).2.symm⟩
  · cases h

/-- Everything a command word can do when it answers a next state. -/
theorem runCommand_next {w : EventWord} {s t : State} (h : runCommand w s = .next t) :
    (∃ i, decode s.cfg w = .ok i ∧ exec i s = .next t) ∨
      (valid s.cfg = true ∧ (∃ r, decode s.cfg w = .error r) ∧ t = s.reject) := by
  unfold runCommand at h
  split at h
  · exact .inl ⟨_, ‹_›, h⟩
  · exact .inr ⟨(running_next.1 h).1, ⟨_, ‹_›⟩, (running_next.1 h).2.symm⟩

/-- Everything the command port can do in an `IDLE` cycle. -/
theorem portCycle_next {p : Pins} {s t : State} (h : portCycle p s = .next t) :
    (p.cmdValid = true ∧ runCommand p.cmdWord s = .next t) ∨
      (p.cmdValid = false ∧ valid s.cfg = true ∧ t = s.setOut outLow) := by
  unfold portCycle at h
  split at h
  · exact .inl ⟨‹_›, h⟩
  · exact .inr ⟨Bool.eq_false_of_not_eq_true ‹_›, (running_next.1 h).1, (running_next.1 h).2.symm⟩

/-- Everything one clock cycle can do. -/
theorem clockCycle_next {p : Pins} {s t : State} (h : clockCycle p s = .next t) :
    (p.rst = true ∧ valid s.cfg = true ∧ t = s.resetRegs) ∨
      (p.rst = false ∧ s.phase = .idle ∧ ∃ u, portCycle p s = .next u ∧ t = endIdleCycle p u) ∨
      (p.rst = false ∧ s.phase ≠ .idle ∧ valid s.cfg = true ∧ t = microStep s) := by
  unfold clockCycle at h
  split at h
  · exact .inl ⟨‹_›, (running_next.1 h).1, (running_next.1 h).2.symm⟩
  · have hr : p.rst = false := Bool.eq_false_of_not_eq_true ‹_›
    split at h
    · split at h
      · cases h; exact .inr (.inl ⟨hr, ‹_›, _, ‹_›, rfl⟩)
      · cases h
      · cases h
    · exact .inr (.inr ⟨hr, ‹_›, (running_next.1 h).1, (running_next.1 h).2.symm⟩)

/-- Everything a step can do when it answers a next state. -/
theorem step_next {s t : State} (h : step s = .next t) :
    (valid s.cfg = true ∧ t = microStep s ∧ (s.inbox = [] ∨ s.phase ≠ .idle)) ∨
      (∃ w rest, s.inbox = .word w :: rest ∧ s.phase = .idle ∧ runWord w (s.take rest) = .next t) ∨
      (∃ w rest, s.inbox = .command w :: rest ∧ s.phase = .idle ∧ runCommand w (s.take rest) = .next t) ∨
      (∃ rest, s.inbox = .reset :: rest ∧ valid s.cfg = true ∧ t = (s.take rest).resetRegs) ∨
      (∃ p rest, s.inbox = .clock p :: rest ∧ clockCycle p (s.take rest) = .next t) := by
  unfold step nextEvent at h
  split at h
  · exact .inl ⟨(running_next.1 h).1, (running_next.1 h).2.symm, .inl ‹_›⟩
  · unfold whenIdle at h
    split at h
    · exact .inr (.inl ⟨_, _, ‹_›, ‹_›, h⟩)
    · exact .inl ⟨(running_next.1 h).1, (running_next.1 h).2.symm, .inr ‹_›⟩
  · unfold whenIdle at h
    split at h
    · exact .inr (.inr (.inl ⟨_, _, ‹_›, ‹_›, h⟩))
    · exact .inl ⟨(running_next.1 h).1, (running_next.1 h).2.symm, .inr ‹_›⟩
  · exact .inr (.inr (.inr (.inl ⟨_, ‹_›, (running_next.1 h).1, (running_next.1 h).2.symm⟩)))
  · exact .inr (.inr (.inr (.inr ⟨_, _, ‹_›, h⟩)))

end Sys2Proof.Machine
end

