-- ==== Sys2Proof/Laws/PerInstr.lean ====
section
/-! SUPPORT. The family EncodedShape: the encoded word of every instruction has the shape of its own row of the opcode
map (spec 30_encoding R48). -/

namespace Sys2Proof.Laws.EncodedShape

/-- The row of an instruction. -/
def rowOf : Instr → Row
  | .nop => rowNop
  | .settw _ _ => rowSettw
  | .setfrq _ _ => rowSetfrq
  | .wavsw _ _ _ => rowWavsw
  | .setdep _ _ => rowSetdep
  | .tick => rowTick
  | .syncsmp _ => rowSyncsmp

/-- The encoded word has the shape of its own row. -/
def Statement (i : Instr) : Prop := (rowOf i).fits (encode i) = true

theorem nop : Statement .nop := by simp [Statement, rowOf, encode, fits_nop]

theorem settw (c : BitVec 4) (imm : BitVec 32) : Statement (.settw c imm) := by
  simp [Statement, rowOf, encode, fits_settw]

theorem setfrq (c : BitVec 4) (reading : BitVec 10) : Statement (.setfrq c reading) := by
  simp only [Statement, rowOf, encode, fits_setfrq, opOf_eventWord, dataOf_eventWord, true_and]
  exact BitVec.extractLsb'_append_eq_left

theorem wavsw (c : BitVec 4) (changed pressed : Bool) : Statement (.wavsw c changed pressed) := by
  simp only [Statement, rowOf, encode, fits_wavsw, opOf_eventWord, dataOf_eventWord, true_and]
  exact BitVec.extractLsb'_append_eq_left

theorem setdep (c : BitVec 4) (dval : BitVec 11) : Statement (.setdep c dval) := by
  simp only [Statement, rowOf, encode, fits_setdep, opOf_eventWord, dataOf_eventWord, true_and]
  exact BitVec.extractLsb'_append_eq_left

theorem tick : Statement .tick := by simp [Statement, rowOf, encode, fits_tick]

theorem syncsmp (levels : BitVec 4) : Statement (.syncsmp levels) := by
  simp only [Statement, rowOf, encode, fits_syncsmp, opOf_eventWord, chOf_eventWord, dataOf_eventWord, true_and]
  exact BitVec.extractLsb'_append_eq_left

end Sys2Proof.Laws.EncodedShape
end

