-- ==== Sys2Proof/Laws/Ports.lean ====
section
/-! SUPPORT. What the output ports of a clock cycle read (10_state R24), which outputs a cycle of the FSM raises, and
how the operations of a list keep a channel's phase. -/

namespace Sys2Proof.Machine

variable (p : Pins) (s : State)

theorem rejects_error {k : Cfg} {w : EventWord} {r : IllReason} (h : decode k w = .error r) : rejects k w = true := by
  simp [rejects, h]

theorem rejects_ok {k : Cfg} {w : EventWord} {i : Instr} (h : decode k w = .ok i) : rejects k w = false := by
  simp [rejects, h]

@[simp] theorem ports_pwmOut : (ports p s).pwmOut = s.cfg.n.channels.map (rd s.pwm) := rfl
@[simp] theorem ports_tickCntOut : (ports p s).tickCntOut = s.tickCnt := rfl
@[simp] theorem ports_slowCntOut : (ports p s).slowCntOut = s.slowCnt := rfl
@[simp] theorem ports_busy : (ports p s).busy = (s.phase != .idle) := rfl
@[simp] theorem ports_cmdReady : (ports p s).cmdReady = cmdReadyIn p s := rfl
@[simp] theorem ports_slowStb :
    (ports p s).slowStb = (countsIn p s && (tickOut s.cfg s.tickCnt s.slowCnt).slowStb) := rfl
@[simp] theorem ports_cadence :
    (ports p s).cadence = (countsIn p s && (tickOut s.cfg s.tickCnt s.slowCnt).cadence) := rfl
@[simp] theorem ports_cmdErr :
    (ports p s).cmdErr = (cmdReadyIn p s && p.cmdValid && rejects s.cfg p.cmdWord) := rfl

/-- A cycle of the FSM raises outputs in `COUNT` only (R72). -/
theorem microStep_out : (microStep s).out = if s.phase = .count then tickOut s.cfg s.tickCnt s.slowCnt else outLow := by
  unfold microStep
  cases hp : s.phase
  case write => simp only [microWrite]; split <;> rfl
  all_goals rfl

theorem activeEdge_iff (levels : BitVec 4) (c : Chan) : activeEdge levels s c = true ↔ ActiveEdge s levels c := by
  simp [activeEdge, edge, ActiveEdge, and_assoc]

/-- What a sample of the pins does, in the terms of the statements (R95, R96). -/
theorem sampled_sampleTriggers (levels : BitVec 4) : Sampled levels s (sampleTriggers levels s) := by
  refine ⟨fun c hc he => ?_, fun c h => ?_, ?_⟩
  · have hm := (mem_channels s.cfg.n c).2 hc
    rw [sampleTriggers_level, sampleTriggers_acc]
    refine ⟨?_, fun h => if_pos ⟨hm, (activeEdge_iff s levels c).2 h⟩,
      fun h => if_neg fun k => h ((activeEdge_iff s levels c).1 k.2)⟩
    by_cases hl : levelAt levels (rd s.cfg.syncSrc c) = rd s.syncLastLevel c <;> simp [edge, hm, he, hl]
  · have he : ¬ (c ∈ s.cfg.n.channels ∧ edge levels s c = true) := by
      rcases h with h | h <;> simp [mem_channels, edge, h]
    have ha : ¬ (c ∈ s.cfg.n.channels ∧ activeEdge levels s c = true) := fun k =>
      he ⟨k.1, (Bool.and_eq_true _ _ ▸ k.2).1⟩
    rw [sampleTriggers_level, sampleTriggers_acc, if_neg he, if_neg ha]
    exact ⟨rfl, rfl⟩
  · rw [sampleTriggers_frame]
    simp [SameParams, SameOutputs, SameConfig, SameLatches]

/-- One operation more in a list that keeps the phase of channel `c`. -/
theorem allKeepSlope_cons {c : Chan} {i : Instr} {is : List Instr} {s t : State} (h : exec i s = .next t)
    (hi : KeepsSlope c s i) (ht : AllKeepSlope c is t) : AllKeepSlope c (i :: is) s :=
  ⟨hi, fun u hu => by rw [h] at hu; cases hu; exact ht⟩

end Sys2Proof.Machine
end

