-- ==== Sys2Proof/Tests/Slice0.lean ====
section
/-! SUPPORT. Tests: expected values are the spec's own vectors (95_test_vectors sections 2 and 3, named by their ids)
or words written out from 30_encoding R48. Then a witness for every statement that has hypotheses. -/

namespace Sys2Proof.Tests

open Sys2Proof Sys2Proof.Machine

/-! Fixtures (95 section 2). -/

/-- `TROM(w, i)`, listed at the given entries only. -/
def trom (l : List (Nat × Nat)) : Memory :=
  l.map fun p => (256 * p.1 + p.2, BitVec.ofNat 8 ((p.1 + 1) * p.2 + 17 * p.1))

/-- `CFG_Q` with some entries of `TROM`. -/
def cfgQ : Cfg where
  n := .four
  rom := trom [(0, 0), (0, 1), (0, 18), (0, 240), (0, 255), (2, 16), (8, 255)]
  tickDiv := 125
  slowDiv := 25
  tickRate := ⟨31372549, 1000, by decide, by decide⟩
  minFreq := #v[⟨1, 10, by decide, by decide⟩, ⟨1, 10, by decide, by decide⟩,
    ⟨1, 10, by decide, by decide⟩, ⟨1, 10, by decide, by decide⟩]
  maxFreq := #v[10, 10, 10, 10]
  depthEn := #v[false, false, false, false]
  syncEn := #v[true, true, true, true]
  numTrig := 2
  syncSrc := #v[0, 0, 1, 1]
  syncPol := #v[true, true, false, true]

/-- `CFG_T`: `X(c, r) = r / 2`. -/
def cfgT : Cfg :=
  { cfgQ with
    n := .two
    rom := []
    tickRate := 8589934592
    minFreq := #v[0, 0, 0, 0]
    maxFreq := #v[1023, 1023, 1023, 1023]
    syncEn := #v[false, false, false, false]
    numTrig := 0 }

def sQ : State := State.resetOf cfgQ
def sD : State := State.resetOf exampleDual

/-- What a step's next state shows. -/
def seen {α : Type} (f : State → α) : Host.Outcome State Fault Refusal → Option α
  | .next t => some (f t)
  | .fault _ => none
  | .refused _ => none

/-- What a step refuses. -/
def refusal : Host.Outcome State Fault Refusal → Option Refusal
  | .refused r => some r
  | _ => none

/-- A configuration with zero tick rate, the source's example of misconfiguration (00_scope R8). -/
def cfgBad : Cfg := { cfgQ with tickRate := 0 }

/-! Well-formedness: one ill-formed term per check. -/

theorem test_wf_settw_channel : Instr.wf cfgQ (.settw 4 0) = false := by decide
theorem test_wf_setfrq_channel : Instr.wf exampleDual (.setfrq 2 0) = false := by decide
theorem test_wf_wavsw_channel : Instr.wf cfgQ (.wavsw 15 true true) = false := by decide
theorem test_wf_setdep_channel : Instr.wf exampleDual (.setdep 2 5) = false := by decide
theorem test_wf_setdep_absent : Instr.wf cfgQ (.setdep 0 512) = false := by decide
theorem test_wf_setdep_range : Instr.wf exampleDual (.setdep 1 1025) = false := by decide
theorem test_wf_syncsmp_levels : Instr.wf exampleDual (.syncsmp 2) = false := by decide
theorem test_wf_accepts : Instr.wf exampleDual (.setdep 1 1024) = true := by decide

/-! Decoding: words from 30_encoding R48 and 95 sections 3.4 to 3.7. -/

theorem test_decode_nop : decodeShape 0x0000000000 = .instr .nop := by decide
theorem test_decode_settw : decodeShape 0x13FFFFFFFF = .instr (.settw 3 0xFFFFFFFF) := by decide
theorem test_decode_setfrq : decodeShape 0x21000003FF = .instr (.setfrq 1 1023) := by decide
theorem test_decode_wavsw : decodeShape 0x3100000001 = .instr (.wavsw 1 false true) := by decide
theorem test_decode_setdep : decodeShape 0x4100000400 = .instr (.setdep 1 1024) := by decide
theorem test_decode_tick : decodeShape 0x8000000000 = .instr .tick := by decide
theorem test_decode_syncsmp : decodeShape 0x900000000A = .instr (.syncsmp 10) := by decide
theorem test_decode_table_row : decodeTableWord 40 0x41000002BC = some (.setdep 1 700) := by decide
theorem test_encode_setdep : encode (.setdep 1 700) = 0x41000002BC := by decide
theorem test_encode_wavsw : encode (.wavsw 1 true false) = 0x3100000002 := by decide

/-- X1 to X12 and X15, the reasons in the order of R56. -/
theorem test_decode_illegal_words :
    decode cfgQ 0x1401000000 = .error .illCh ∧ decode exampleDual 0x1200000005 = .error .illCh
      ∧ decode cfgQ 0x4000000200 = .error .illDepthAbsent
      ∧ decode exampleDual 0x4100000401 = .error .illDepthRange
      ∧ decode exampleDual 0x4000000800 = .error .illRsvd ∧ decode exampleDual 0x4200000005 = .error .illCh
      ∧ decode cfgQ 0x5000000000 = .error .illOp ∧ decode cfgQ 0xF000000000 = .error .illOp
      ∧ decode cfgQ 0x2000000400 = .error .illRsvd ∧ decode cfgQ 0x3100000004 = .error .illRsvd
      ∧ decode cfgQ 0x0100000000 = .error .illRsvd ∧ decode cfgQ 0x0000000001 = .error .illRsvd
      ∧ decode cfgQ 0x2400000400 = .error .illRsvd := by
  refine ⟨?_, ?_, ?_, ?_, ?_, ?_, ?_, ?_, ?_, ?_, ?_, ?_, ?_⟩ <;> rfl

/-- X13, X14: port events on the command port. -/
theorem test_decode_port_words :
    decode cfgQ 0x8000000000 = .error .illPort ∧ decode cfgQ 0x9000000001 = .error .illPort := by
  refine ⟨?_, ?_⟩ <;> rfl

/-- A line of P2 and a line of P5 (30_encoding R58). -/
theorem test_parse_lines :
    parseLine "SYNCSMP 0b01             # 0x90_0000_0001".toList = some [.instr (.syncsmp 1)]
      ∧ parseLine "WORD 0x14_0100_0000      # SETTW 4".toList = some [.word 0x1401000000] := by decide

theorem test_parse_field_width : parseLine "SETFRQ 0, 1024".toList = none := by decide

/-! One step each. -/

/-- X16. -/
theorem test_nop : seen (fun t => (t.out, t.tw, t.acc)) (exec .nop sQ) = some ({}, sQ.tw, sQ.acc) := by decide

/-- P1v, and X1 rejected. -/
theorem test_settw :
    seen (fun t => (rd t.tw 2, rd t.tw 1)) (exec (.settw 2 0x01000000) sQ) = some (0x01000000, 0)
      ∧ seen (fun t => (t.tw, t.out.err)) (exec (.settw 4 0x01000000) sQ) = some (sQ.tw, true) := by decide

/-- F1, F5, F7. -/
theorem test_setfrq_cfgQ :
    (exec (.setfrq 0 0) sQ |> seen fun t => rd t.tw 0) = some 0x0000357A
      ∧ (exec (.setfrq 0 512) sQ |> seen fun t => rd t.tw 0) = some 0x000A8F32
      ∧ (exec (.setfrq 0 1023) sQ |> seen fun t => rd t.tw 0) = some 0x0014E3BD := by decide

/-- F12 to F17: ties round up. -/
theorem test_setfrq_ties :
    [0, 1, 2, 3, 5, 1023].map (tuningWord cfgT 0) = [0, 1, 1, 2, 3, 512] := by decide

/-- W3, W4. -/
theorem test_wavsw :
    seen (fun t => (rd t.waveRef 1, rd t.lastWaveIndex 1)) (exec (.wavsw 1 true true) (sQ.setWave 1 3)) = some (4, 4)
      ∧ seen (fun t => rd t.waveRef 1) (exec (.wavsw 1 true false) (sQ.setWave 1 3)) = some 3 := by decide

/-- W5: the wrap. -/
theorem test_wavsw_wraps :
    seen (fun t => (rd t.waveRef 1, rd t.lastWaveIndex 1)) (exec (.wavsw 1 true true) (sQ.setWave 1 8)) = some (0, 0) := by
  decide

/-- Dp1, X4. -/
theorem test_setdep :
    seen (fun t => (rd t.depth 0, rd t.depth 1)) (exec (.setdep 1 700) sD) = some (1024, 700)
      ∧ seen (fun t => (rd t.depth 1, t.out.err)) (exec (.setdep 1 1025) sD) = some (1024, true) := by decide

/-- T6, T7, T8b, T8c on the four channels, and K5. -/
theorem test_tick :
    seen (fun t => (t.acc.toList, t.pwm.toList, t.tickCnt, t.slowCnt, t.out))
      (exec .tick { sQ with
        acc := #v[0x12000000, 0xDEADBEEF, 0x0F000000, 0xFE000000]
        tw := #v[0x00FFFFFF, 0x12345678, 0x01000000, 0x01000000]
        waveRef := #v[0, 0, 2, 8]
        tickCnt := 124
        slowCnt := 24 }) =
      some ([0x12FFFFFF, 0xF0E21567, 0x10000000, 0xFF000000], [18, 240, 82, 127], 0, 0,
        { slowStb := true, cadence := true }) := by decide

/-- T10 to T18. -/
theorem test_tick_depth :
    [(255, 1024), (255, 1023), (1, 1023), (1, 1024), (255, 0), (128, 512), (200, 700), (255, 4), (255, 5), (0, 1024)].map
      (fun p => (scaleSample true (BitVec.ofNat 8 p.1) (BitVec.ofNat 11 p.2)).toNat) =
      [255, 254, 0, 1, 0, 64, 136, 0, 1, 0] := by decide

/-- S2, S6 (channel 2 falls at 0), and the shared input of P2. -/
theorem test_syncsmp :
    seen (fun t => (t.acc.toList, t.syncLastLevel.toList))
      (exec (.syncsmp 3) { sQ with acc := #v[1, 2, 3, 4] }) =
      some ([0, 0, 3, 0], [true, true, true, true]) := by decide

/-- S3, S4, S5. -/
theorem test_syncsmp_levels :
    seen (fun t => (t.acc.toList, t.syncLastLevel.toList))
      (exec (.syncsmp 1) { sQ with acc := #v[1, 2, 3, 4], syncLastLevel := #v[true, false, true, true] }) =
      some ([1, 0, 0, 4], [true, true, false, false]) := by decide

/-- 95 section 3.7, the last lines: ill-formed trace words of `CFG_D`. -/
theorem test_ill_formed_trace_words :
    refusal (step (sD.withFetchWord 40 0x8000000001)) = some (.illFormedTrace .tick 1)
      ∧ refusal (step (sD.withFetchWord 40 0x9000000002)) = some (.illFormedTrace .syncsmp 1) := by decide

/-- A strobe in `IDLE` is accepted, after the command of the same cycle (20_memory R40). -/
theorem test_clock_cycle :
    seen (fun t => (t.phase, rd t.tw 2, t.out.err))
      (step (sQ.withEvent (.clock ⟨false, true, true, 0x1201000000, 0⟩))) = some (.acc, 0x01000000, false) := by decide

/-- Z1: reset in the middle of a tick. -/
theorem test_reset_event :
    seen (fun t => (t.phase, t.ci, rd t.depth 1, t.tickCnt))
      (step { sD.setDepth 1 3 with inbox := [.reset], phase := .write, ci := 1, tickCnt := 9 }) =
      some (.idle, 0, 1024, 0) := by decide

/-- R72: `slow_stb` and `cadence` are high in the `COUNT` cycle of the tick that wraps both counters, not after it, and
low if `rst` is high in it. -/
theorem test_strobe_pins :
    let s := { sQ with phase := .count, ci := 3, tickCnt := 124, slowCnt := 24 }
    let p : Pins := ⟨false, false, false, 0, 0⟩
    ((ports p s).slowStb, (ports p s).cadence, (ports p s).busy, (ports p s).tickCntOut) = (true, true, true, 124)
      ∧ seen (fun t => ((ports p t).slowStb, (ports p t).cadence, (ports p t).busy, (ports p t).tickCntOut))
        (clockCycle p s) = some (false, false, false, 0)
      ∧ ((ports { p with rst := true } s).slowStb, (ports { p with rst := true } s).cadence) = (false, false) := by
  decide

/-- R106: `cmd_err` is high in the `IDLE` cycle that accepts an illegal word, and in no busy cycle. -/
theorem test_cmd_err_pin :
    let p : Pins := ⟨false, false, true, 0x1401000000, 0⟩
    (ports p sQ).cmdErr = true ∧ (ports p { sQ with phase := .scale }).cmdErr = false
      ∧ (ports { p with cmdValid := false } sQ).cmdErr = false
      ∧ (ports { p with cmdWord := 0x1201000000 } sQ).cmdErr = false
      ∧ (ports { p with rst := true } sQ).cmdErr = false := by decide

theorem test_waveforms : waveform 0 = .sine ∧ waveform 8 = .noise := by decide

/-- A `TICK` answers wherever the configuration is valid. -/
theorem answers_tick {s : State} (h : valid s.cfg = true) : ∃ t, exec .tick s = .next t :=
  ⟨tickAll s, running_valid h⟩

/-- A legal `SETTW` answers. -/
theorem answers_settw {s : State} {c : BitVec 4} {v : Word} (h : valid s.cfg = true)
    (hi : illegal s.cfg (.settw c v) = none) : ∃ t, exec (.settw c v) s = .next t :=
  ⟨_, (perform_legal h hi : perform s (.settw c v) (s.setTw (chan c) v) = _)⟩

/-! Witnesses: the hypotheses of every statement that has some, met together. -/

theorem valid_cfgQ : valid cfgQ = true := by decide
theorem valid_cfgD : valid exampleDual = true := by decide
theorem invalid_cfgBad : valid cfgBad = false := by decide

theorem witness_EveryInstructionHasOneWord : decodeShape 0x41000002BC = .instr (.setdep 1 700) := by decide

theorem witness_OpcodeRowsNeverOverlap : rowSettw.fits 0x1401000000 = true ∧ rowSyncsmp.fits 0x900000000F = true := by decide

theorem witness_PortDecoder :
    decodeShape 0x5000000000 = .illegal .illOp ∧ decodeShape 0x8000000001 = .malformed .tick
      ∧ (decodeShape 0x1201000000 = .instr (.settw 2 0x01000000) ∧ IsCommand (.settw 2 0x01000000))
      ∧ (decodeShape 0x900000000F = .instr (.syncsmp 15) ∧ ¬ IsCommand (.syncsmp 15)) := by
  refine ⟨by decide, by decide, ⟨by decide, by simp [IsCommand]⟩, by decide, by simp [IsCommand]⟩

theorem witness_ReservedAndPort :
    opOf 0x5000000000 ∈ [0x5#4, 0x6, 0x7, 0xA, 0xB, 0xC, 0xD, 0xE, 0xF]
      ∧ opOf 0xF000000000 ∈ [0x5#4, 0x6, 0x7, 0xA, 0xB, 0xC, 0xD, 0xE, 0xF]
      ∧ opOf 0x8000000000 = 0x8 ∧ opOf 0x9000000001 = 0x9 := by decide

theorem witness_CommandForAbsentChannel :
    valid sQ.cfg = true ∧ sQ.cfg.n.count ≤ (4 : BitVec 4).toNat
      ∧ valid sD.cfg = true ∧ sD.cfg.n.count ≤ (2 : BitVec 4).toNat := by decide

theorem witness_OperandRanges :
    ((3 : Chan).val = (3 : BitVec 4).toNat ∧ (3 : BitVec 4).toNat < cfgQ.n.count ∧ rd cfgQ.depthEn 3 = false)
      ∧ ((1 : Chan).val = (1 : BitVec 4).toNat ∧ (1 : BitVec 4).toNat < exampleDual.n.count
        ∧ rd exampleDual.depthEn 1 = true ∧ 1024 < (1025 : BitVec 11).toNat ∧ (1024 : BitVec 11).toNat ≤ 1024) := by decide

theorem witness_StepRunsTheDecodedInstruction :
    (sQ.withEvent (.word 0x1201000000)).phase = .idle
      ∧ (sQ.withEvent (.word 0x1201000000)).inbox = .word 0x1201000000 :: []
      ∧ decodeShape 0x1201000000 = .instr (.settw 2 0x01000000)
      ∧ (sQ.withEvent (.command 0x1201000000)).inbox = .command 0x1201000000 :: []
      ∧ decode cfgQ 0x1201000000 = .ok (.settw 2 0x01000000) :=
  ⟨rfl, rfl, by decide, rfl, rfl⟩

/-- A busy state of `CFG_Q`: channel 3 in a phase, with events to come. -/
def busy (p : Phase) (es : List Event) : State := { sQ with phase := p, ci := 3, inbox := es }

theorem witness_OperationsWait :
    valid (busy .scale [.word 0]).cfg = true ∧ (busy .scale [.word 0]).phase ≠ .idle
      ∧ (busy .scale [.word 0]).inbox = .word 0 :: [] ∧ (busy .acc [.command 0]).inbox = .command 0 :: [] := by decide

theorem witness_MalformedTraceWords :
    (opOf 0x8000000001 = 8 ∧ (0x8000000001 : EventWord) ≠ 0x8000000000)
      ∧ opOf 0x9000000004 = 9
      ∧ ¬ ∃ l : BitVec 4, 0x9000000004 = encode (.syncsmp l) ∧ ∀ t : Fin 4,
          sQ.cfg.numTrig.val ≤ t.val → levelAt l t = false := by decide

/-- For `OnlyValidConfigurationsRun`; `valid_cfgQ` and `valid_cfgD` are for `EveryStepCompletesOrNamesAnIllFormedWord`
and `InvariantHoldsAfterReset`. -/
theorem witness_OnlyValidConfigurationsRun : valid (State.resetOf cfgBad).cfg = false := by decide

/-- For `CmdErrIsRaisedByIllegalCommandsOnly`. -/
theorem witness_IllegalCommand :
    valid sQ.cfg = true ∧ sQ.phase = .idle ∧ decode sQ.cfg 0x1401000000 = .error .illCh
      ∧ (sQ.withEvent (.command 0x1401000000)).inbox = .command 0x1401000000 :: []
      ∧ (sQ.withEvent (.word 0x1401000000)).inbox = .word 0x1401000000 :: []
      ∧ opOf 0x1401000000 ≠ 8 ∧ opOf 0x1401000000 ≠ 9
      ∧ (sQ.withEvent (.clock ⟨false, true, true, 0x1401000000, 1⟩)).inbox =
        .clock ⟨false, true, true, 0x1401000000, 1⟩ :: []
      ∧ seen (fun t => t.out.err) (step (sQ.withEvent (.command 0x1401000000))) = some true
      ∧ seen (fun t => t.out.err) (step (sQ.withEvent (.word 0x1401000000))) = some true
      ∧ seen (fun t => t.out.err) (step (sQ.withEvent (.clock ⟨false, true, true, 0x1401000000, 1⟩))) = some true :=
  ⟨by decide, rfl, rfl, rfl, rfl, by decide, by decide, rfl, by decide, by decide, by decide⟩

theorem witness_Nop :
    valid sQ.cfg = true ∧ opOf 0x0100000000 = 0 ∧ chOf 0x0100000000 ≠ 0 ∧ opOf 0x0000000001 = 0
      ∧ dataOf 0x0000000001 ≠ 0 := by decide

/-- For `SettwStoresTheTuningWord` and `SetfrqStoresTheTuningWordOfTheReading`. -/
theorem witness_LegalChannel :
    valid sQ.cfg = true ∧ (3 : BitVec 4).toNat < sQ.cfg.n.count ∧ sQ.cfg.n.count ≤ (4 : BitVec 4).toNat := by decide

theorem witness_TuningWord : valid cfgQ = true ∧ (3 : Chan).val < cfgQ.n.count ∧ 1023 ≤ 1023 := by decide

/-- For the reserved bits in `SetfrqStoresTheTuningWordOfTheReading`, `WavswAdvancesOnAPressEdgeOnly` and
`SetdepStoresTheDepth`. -/
theorem witness_ReservedBits :
    (opOf 0x2000000400 = 2 ∧ (dataOf 0x2000000400).extractLsb' 10 22 ≠ 0)
      ∧ (opOf 0x3100000004 = 3 ∧ (dataOf 0x3100000004).extractLsb' 2 30 ≠ 0)
      ∧ (opOf 0x4000000800 = 4 ∧ (dataOf 0x4000000800).extractLsb' 11 21 ≠ 0) := by decide

theorem witness_TuningWordProperties :
    (valid cfgQ = true ∧ (0 : Chan).val < cfgQ.n.count) ∧ (511 ≤ 512 ∧ 512 ≤ 1023)
      ∧ sQ.cfg = (sQ.setTw 0 7).cfg ∧ (0 : BitVec 4).toNat < sQ.cfg.n.count ∧ ∃ t, exec (.setfrq 0 1023) sQ = .next t :=
  ⟨by decide, by decide, rfl, by decide, _,
    (perform_legal (by decide) rfl : perform sQ (.setfrq 0 1023) (sQ.setTw (chan 0) (BitVec.ofNat 32 (tuningWord sQ.cfg (chan 0) 1023))) = _)⟩

theorem witness_Wavsw :
    valid sQ.cfg = true ∧ (3 : BitVec 4).toNat < sQ.cfg.n.count ∧ (3 : Chan).val = (3 : BitVec 4).toNat := by decide

theorem witness_WaveSelect : ∃ t, exec (.wavsw 3 true true) (sQ.setWave 3 8) = .next t :=
  ⟨_, (perform_legal (by decide) rfl :
    perform (sQ.setWave 3 8) (.wavsw 3 true true) (waveSwitch (chan 3) true true (sQ.setWave 3 8)) = _)⟩

theorem witness_Setdep :
    valid sD.cfg = true ∧ (1 : Chan).val = (1 : BitVec 4).toNat % 4 ∧ (1 : BitVec 4).toNat < sD.cfg.n.count
      ∧ rd sD.cfg.depthEn 1 = true ∧ (1024 : BitVec 11).toNat ≤ 1024 := by decide

/-- A control pass with the largest depth. -/
def readings : Vector Reading 4 := Vector.replicate 4 ⟨true, true, 1023, 1024⟩

theorem witness_ControlPass :
    valid sD.cfg = true ∧ ∀ c : Chan, c.val < sD.cfg.n.count → rd sD.cfg.depthEn c = true →
      (rd readings c).dval.toNat ≤ 1024 := by decide

theorem witness_Tick :
    valid sD.cfg = true ∧ (1 : Chan).val < sD.cfg.n.count ∧ (rd sD.depth 1).toNat ≤ 1024
      ∧ sD.cfg.n.count ≤ (2 : Chan).val := by decide

/-- A busy cycle's pins: a strobe, an illegal command, both triggers high. -/
def noisy : Pins := ⟨false, true, true, 0x5000000000, 3⟩

/-- For the five statements about one cycle of the FSM and for `BusyCyclesIgnoreTheInputPins`. -/
theorem witness_BusyCycles :
    valid (busy .acc []).cfg = true ∧ noisy.rst = false ∧ (busy .acc []).phase = .acc
      ∧ (busy .lookup []).phase = .lookup ∧ (busy .scale []).phase = .scale
      ∧ (rd (busy .scale []).depth (busy .scale []).ci).toNat ≤ 1024 ∧ (busy .write []).phase = .write
      ∧ (busy .write []).ci.val < (busy .write []).cfg.n.count ∧ (busy .count []).phase = .count
      ∧ (busy .write []).ci.val + 1 = (busy .write []).cfg.n.count
      ∧ ((busy .write []).setFsm .write 2).ci.val + 1 ≠ (busy .write []).cfg.n.count := by decide

theorem witness_FsmTransitions :
    (sQ.phase = .idle → sQ.ci = 0) ∧ sQ.ci.val < sQ.cfg.n.count
      ∧ seen State.phase (clockCycle noisy sQ) = some .acc
      ∧ seen State.phase (clockCycle { noisy with tickStb := false } sQ) = some .idle
      ∧ seen State.phase (clockCycle { noisy with rst := true } (busy .write [])) = some .idle
      ∧ seen State.phase (clockCycle noisy (busy .acc [])) = some .lookup
      ∧ seen State.phase (clockCycle noisy (busy .write [])) = some .count
      ∧ seen State.phase (clockCycle noisy ((busy .write []).setFsm .write 2)) = some .acc
      ∧ seen State.phase (clockCycle noisy (busy .count [])) = some .idle := by decide

theorem witness_FsmRefinesTick : valid sQ.cfg = true ∧ sQ.phase = .idle ∧ sQ.ci = 0 := by decide

/-- An `IDLE` cycle with a command, a strobe and a rising trigger, then 17 noisy cycles. -/
def cycleRun : State :=
  { sQ with inbox := .clock ⟨false, true, true, 0x1201000000, 1⟩ :: ((List.replicate 17 noisy).map .clock ++ [.reset]) }

theorem witness_CycleLevelRefines :
    valid cycleRun.cfg = true ∧ cycleRun.phase = .idle ∧ cycleRun.ci = 0
      ∧ decode cycleRun.cfg 0x1201000000 = .ok (.settw 2 0x01000000) ∧ levelsFit cycleRun.cfg 1 = true
      ∧ (List.replicate 17 noisy).length = 4 * cycleRun.cfg.n.count + 1
      ∧ (∀ q ∈ List.replicate 17 noisy, q.rst = false) :=
  ⟨by decide, rfl, rfl, rfl, by decide, rfl, by decide⟩

theorem witness_ChannelsDoNotInteract :
    sD.cfg = (sD.setDepth 1 3).cfg ∧ rd sD.depth 0 = rd (sD.setDepth 1 3).depth 0 ∧ (0 : Chan).val < sD.cfg.n.count
      ∧ rd sD.acc 0 = rd sD.acc 1 ∧ rd sD.tw 0 = rd sD.tw 1
      ∧ (∃ t, exec .tick sD = .next t) ∧ ∃ v, exec .tick (sD.setDepth 1 3) = .next v :=
  ⟨rfl, by decide, by decide, rfl, rfl, answers_tick (by decide), answers_tick (by decide)⟩

/-- A sample without an active edge on channel 3, an illegal `SETTW` whose field is 3 modulo 4, and `TICK`s. -/
theorem witness_AccumulatorIsLinear :
    valid sQ.cfg = true ∧ (3 : Chan).val < sQ.cfg.n.count
      ∧ AllKeepSlope 3 [.syncsmp 0, .tick, .settw 2 9, .settw 7 1, .wavsw 3 true true, .tick] sQ := by
  refine ⟨by decide, by decide, allKeepSlope_cons (t := (sampleTriggers 0 sQ).setOut outLow)
    (running_valid (by decide) : running sQ ((sampleTriggers 0 sQ).setOut outLow) = _)
    ⟨by decide, fun h => h.2.1 (by decide)⟩ ?_⟩
  simp [AllKeepSlope, KeepsSlope]

theorem witness_PowerOfTwoPeriod :
    (rd (sQ.setTw 3 0x01000000).tw 3).toNat = 2 ^ (32 - 8) ∧ (rd (sQ.setTw 3 1).tw 3).toNat = 2 ^ (32 - 32)
      ∧ (rd (sQ.setTw 3 0x80000000).tw 3).toNat = 2 ^ (32 - 1) ∧ 0 < 1 ∧ 1 < 2 ^ 1 := by decide

theorem witness_WavetableInOrder :
    valid sQ.cfg = true ∧ (3 : Chan).val < sQ.cfg.n.count ∧ rd sQ.cfg.depthEn 3 = false
      ∧ rd (sQ.setTw 3 0x01000000).tw 3 = 0x01000000 := by decide

/-- For `CountersCountTheTicksSinceReset` and `SlowTicksAndCadenceComeOnTime`. -/
theorem witness_Counters : ∃ t, execAll ([.nop] ++ [.tick]) (State.resetOf cfgQ) = .next t :=
  ⟨_, by
    simp only [List.cons_append, List.nil_append, execAll, exec, execNop, execTick, perform,
      running_valid (s := State.resetOf cfgQ) valid_cfgQ]
    rw [running_valid (by exact valid_cfgQ)]⟩

/-- For `SyncsmpIsALevelCompareEdgeDetector` and `SyncResetIsExactAndTheNextTickStartsFromIt` (levels 3, channel 3). -/
theorem witness_Syncsmp :
    valid sQ.cfg = true ∧ (3 : BitVec 4).toNat < 2 ^ sQ.cfg.numTrig.val ∧ (3 : Chan).val < sQ.cfg.n.count
      ∧ rd sQ.cfg.syncEn 3 = true
      ∧ levelAt 0 (rd sQ.cfg.syncSrc 3) = rd sQ.syncLastLevel 3
      ∧ levelAt 3 (rd sQ.cfg.syncSrc 3) ≠ rd sQ.syncLastLevel 3 ∧ levelAt 3 (rd sQ.cfg.syncSrc 3) = rd sQ.cfg.syncPol 3
      ∧ levelAt 3 (rd sQ.cfg.syncSrc 2) ≠ rd sQ.syncLastLevel 2 ∧ levelAt 3 (rd sQ.cfg.syncSrc 2) ≠ rd sQ.cfg.syncPol 2
      ∧ sD.cfg.n.count ≤ (2 : Chan).val ∧ rd sD.cfg.syncEn 1 = false := by decide

theorem witness_SharedTrigger :
    valid sQ.cfg = true ∧ levelsFit sQ.cfg 3 = true ∧ rd sQ.cfg.syncEn 0 = true ∧ rd sQ.cfg.syncEn 1 = true
      ∧ rd sQ.cfg.syncSrc 0 = rd sQ.cfg.syncSrc 1 ∧ rd sQ.cfg.syncPol 0 = rd sQ.cfg.syncPol 1
      ∧ rd sQ.syncLastLevel 0 = rd sQ.syncLastLevel 1 ∧ rd sQ.syncLastLevel 0 ≠ rd sQ.cfg.syncPol 0
      ∧ levelAt 3 (rd sQ.cfg.syncSrc 0) = rd sQ.cfg.syncPol 0 := by decide

theorem witness_RepeatedSamples :
    (∀ c : Chan, c.val < sQ.cfg.n.count → rd sQ.cfg.syncEn c = true →
        levelAt 0 (rd sQ.cfg.syncSrc c) = rd sQ.syncLastLevel c)
      ∧ levelsFit sQ.cfg 0 = true ∧ ∃ t, exec (.syncsmp 3) sQ = .next t :=
  ⟨by decide, by decide, _, (running_valid (by decide) : running sQ ((sampleTriggers 3 sQ).setOut outLow) = _)⟩

theorem witness_CommandAndSampleCommute :
    valid sQ.cfg = true ∧ IsCommand (.settw 0 1) ∧ levelsFit sQ.cfg 3 = true :=
  ⟨by decide, by simp [IsCommand], by decide⟩

theorem witness_ResetValues : State.reset = State.resetOf exampleDual ∧ 1 < exampleDual.n.count := ⟨rfl, by decide⟩

theorem witness_Rst :
    valid sQ.cfg = true ∧ ({ noisy with rst := true } : Pins).rst = true
      ∧ (busy .scale [.reset]).inbox = .reset :: [] ∧ valid (busy .scale [.reset]).cfg = true := by decide

/-- For `EachRegisterHasItsWriters`, `CommandsTouchTheirOwnChannelOnly` and `PlacesAboveTheLastChannelAreNeverTouched`. -/
theorem witness_ExecAnswers :
    (∃ t, exec .tick sQ = .next t) ∧ (∃ t, exec (.settw 3 1) sQ = .next t) ∧ IsCommand (.settw 3 1)
      ∧ channelField (.settw 3 1) = some 3 ∧ sD.cfg.n.count ≤ (2 : Chan).val ∧ ∃ t, exec (.setdep 1 5) sD = .next t :=
  ⟨answers_tick (by decide), answers_settw (by decide) rfl, by simp [IsCommand], rfl, by decide, _,
    (perform_legal (by decide) rfl : perform sD (.setdep 1 5) (sD.setDepth (chan 1) 5) = _)⟩

theorem witness_ControlSide :
    (∀ i ∈ [Instr.syncsmp 3], i ≠ .tick) ∧ seen (fun t => t.tw) (execAll [.syncsmp 3] sQ) = some sQ.tw
      ∧ seen (fun t => rd t.acc 3) (exec (.syncsmp 3) (sQ.setAcc 3 7)) = some 0 ∧ rd (sQ.setAcc 3 7).acc 3 ≠ 0 := by
  decide

/-- For `EveryStepCompletesOrNamesAnIllFormedWord`: levels that fit, levels that do not, and a malformed word. -/
theorem witness_EveryStepCompletes :
    valid sD.cfg = true ∧ levelsFit sD.cfg 1 = true ∧ levelsFit sD.cfg 2 = false
      ∧ decodeShape 0x9000000002 = .instr (.syncsmp 2) ∧ decodeShape 0x8000000001 = .malformed .tick := by decide

/-- For `IdleCycleTakesCommandSampleAndStrobe`: with and without a command, a legal and an illegal one, with and without
a strobe, a sample with an active edge and one without. -/
theorem witness_IdleCycle :
    valid sQ.cfg = true ∧ sQ.phase = .idle
      ∧ decode sQ.cfg 0x1201000000 = .ok (.settw 2 0x01000000) ∧ decode sQ.cfg 0x1401000000 = .error .illCh
      ∧ seen (fun t => (t.phase, rd t.tw 2, rd t.acc 3, t.out.err))
        (clockCycle ⟨false, false, true, 0x1201000000, 2⟩ (sQ.setAcc 3 7)) = some (.idle, 0x01000000, 0, false)
      ∧ seen (fun t => (t.phase, rd t.acc 3, t.out.err))
        (clockCycle ⟨false, true, true, 0x1401000000, 0⟩ (sQ.setAcc 3 7)) = some (.acc, 7, true)
      ∧ seen (fun t => (t.phase, rd t.acc 3, t.out.err))
        (clockCycle ⟨false, false, false, 0x1401000000, 0⟩ (sQ.setAcc 3 7)) = some (.idle, 7, false) :=
  ⟨by decide, rfl, rfl, rfl, by decide, by decide, by decide⟩

/-- For `OutputPinsBelongToTheirCycle`; the boundary cycles are the last of channel 0 and `COUNT`. -/
theorem witness_OutputPins :
    valid sQ.cfg = true ∧ noisy.rst = false ∧ 4 ≤ 4 * sQ.cfg.n.count ∧ 16 ≤ 4 * sQ.cfg.n.count
      ∧ seen (fun t => t.phase) (clockCycle noisy (microSteps 16 (acceptStrobe sQ))) = some .idle
      ∧ seen (fun t => t.out.slowStb) (exec .tick (sQ.setCounters 124 0)) = some true := by decide

theorem witness_BusyTimeIsBounded : (busy .acc []).ci.val < (busy .acc []).cfg.n.count := by decide

theorem witness_TicksBeforeAnyCommand : valid cfgQ = true ∧ 0 < 1 := by decide

/-- For the ROM clause of `NothingWritesTheConfigurationOrTheRom`; its step is that of `witness_Invariant`. -/
theorem witness_NothingWrites : (sD.withEvent (.word 0)).cfg.rom.wf := reset_memory_wf

/-- The reset state of `CFG_Q` with a word to run meets the invariant and answers. -/
theorem witness_Invariant :
    Invariant (sQ.withEvent (.word 0x1201000000)) ∧ ∃ t, step (sQ.withEvent (.word 0x1201000000)) = .next t := by
  refine ⟨⟨by decide, fun _ => rfl, by decide, by decide, by decide, by decide, fun _ => rfl⟩, ?_⟩
  exact answers_settw (s := (sQ.withEvent (.word 0x1201000000)).take []) (by decide) rfl

end Sys2Proof.Tests
end

namespace Sys2Proof.Machine

/-! A `Cfg` in exact rationals (00_scope R8, 41_param R83): the model's integer forms (log 11) and the spec's formulas
agree. -/

section Rationals

variable {k : Cfg} {c : Chan}

/-- Item 3 of R8, whose model form is cross-multiplied. -/
theorem freqBoundsOk_iff : freqBoundsOk k c = true ↔ 0 ≤ rd k.minFreq c ∧ rd k.minFreq c ≤ rd k.maxFreq c := by
  simp [freqBoundsOk, Rat.le_iff (rd k.minFreq c)]

theorem tuningDen_pos (h : 0 < k.tickRate) : 0 < tuningDen k c := by
  have hr : 0 < k.tickRate.num := Rat.num_pos.2 h
  have hlo := (rd k.minFreq c).den_pos
  have hhi := (rd k.maxFreq c).den_pos
  unfold tuningDen
  positivity

/-- R83's `X` is the fraction the model computes with. -/
theorem tuningX_eq_tuningNum_div_tuningDen (h : 0 < k.tickRate) (r : Nat) :
    tuningX k c r = tuningNum k c r / tuningDen k c := by
  have hr : (k.tickRate.num : ℚ) ≠ 0 := mod_cast (Rat.num_pos.2 h).ne'
  simp only [tuningX, freq, tuningNum, tuningDen]
  conv_lhs => rw [← Rat.num_div_den k.tickRate, ← Rat.num_div_den (rd k.minFreq c), ← Rat.num_div_den (rd k.maxFreq c)]
  push_cast
  field_simp
  ring

/-- Rounding half up in the rationals is the integer division of `tuningWord`, before negative values are cut off. -/
theorem floor_tuningX_add_half (h : 0 < k.tickRate) (r : Nat) :
    ⌊tuningX k c r + 1 / 2⌋ = (2 * tuningNum k c r + tuningDen k c) / (2 * tuningDen k c) := by
  have hq : 0 < tuningDen k c := tuningDen_pos h
  rw [tuningX_eq_tuningNum_div_tuningDen h]
  lift tuningDen k c to ℕ using hq.le with q
  have hq' : (q : ℚ) ≠ 0 := mod_cast hq.ne'
  have key : (tuningNum k c r / (q : ℤ) + 1 / 2 : ℚ) = (2 * tuningNum k c r + q : ℤ) / (2 * q : ℕ) := by
    push_cast
    field_simp
  rw [key, Rat.floor_intCast_div_natCast, Nat.cast_mul, Nat.cast_ofNat]

/-- The tuning word is the exact rational rounded half up, and 0 where that is negative. -/
theorem tuningWord_eq_toNat_floor (h : 0 < k.tickRate) (r : Nat) : tuningWord k c r = ⌊tuningX k c r + 1 / 2⌋.toNat := by
  rw [floor_tuningX_add_half h]
  rfl

/-- Item 4 of R8. -/
theorem tuningWord_lt_iff (h : 0 < k.tickRate) (r : Nat) :
    tuningWord k c r < 2 ^ 32 ↔ ⌊tuningX k c r + 1 / 2⌋ ≤ 2 ^ 32 - 1 := by
  rw [tuningWord_eq_toNat_floor h]
  omega

/-- Items 3, 4 and 5 of R8 for one channel. -/
theorem channelOk_iff (h : 0 < k.tickRate) :
    channelOk k c = true ↔
      (0 ≤ rd k.minFreq c ∧ rd k.minFreq c ≤ rd k.maxFreq c)
        ∧ ⌊tuningX k c 1023 + 1 / 2⌋ ≤ 2 ^ 32 - 1
        ∧ (rd k.syncEn c = true → (rd k.syncSrc c).val < k.numTrig.val) := by
  rw [← freqBoundsOk_iff, ← tuningWord_lt_iff h]
  cases hs : rd k.syncEn c <;> simp [channelOk, hs, and_assoc]

/-- The five items of R8. -/
theorem valid_iff :
    valid k = true ↔ 1 ≤ k.tickDiv ∧ 1 ≤ k.slowDiv ∧ 0 < k.tickRate
      ∧ ∀ c : Chan, c.val < k.n.count → channelOk k c = true := by
  simp [valid, mem_channels, Rat.num_pos, and_assoc]

end Rationals

/-! Whatever answers a next state has a valid `Cfg` (R8): each kind of event ends in `running`. -/

section Answers

variable {s t : State} {w : EventWord} {p : Pins}

theorem valid_of_runWord_next (h : runWord w s = .next t) : valid s.cfg = true := by
  obtain ⟨_, -, he⟩ | ⟨hv, -⟩ := runWord_next h
  · exact (exec_next he).1
  · exact hv

theorem valid_of_runCommand_next (h : runCommand w s = .next t) : valid s.cfg = true := by
  obtain ⟨_, -, he⟩ | ⟨hv, -⟩ := runCommand_next h
  · exact (exec_next he).1
  · exact hv

theorem valid_of_clockCycle_next (h : clockCycle p s = .next t) : valid s.cfg = true := by
  obtain ⟨-, hv, -⟩ | ⟨-, -, _, hp, -⟩ | ⟨-, -, hv, -⟩ := clockCycle_next h
  · exact hv
  · obtain ⟨-, hc⟩ | ⟨-, hv, -⟩ := portCycle_next hp
    · exact valid_of_runCommand_next hc
    · exact hv
  · exact hv

theorem valid_of_step_next (h : step s = .next t) : valid s.cfg = true := by
  obtain ⟨hv, -⟩ | ⟨_, _, -, -, hw⟩ | ⟨_, _, -, -, hc⟩ | ⟨_, -, hv, -⟩ | ⟨_, _, -, hk⟩ := step_next h
  · exact hv
  · exact valid_of_runWord_next (s := s.take _) hw
  · exact valid_of_runCommand_next (s := s.take _) hc
  · exact hv
  · exact valid_of_clockCycle_next (s := s.take _) hk

end Answers

/-- Settles O14: the model's integer checks are R8's conditions, and a step that answers has passed them. -/
theorem onlyValidConfigurationsRun : Obligations.OnlyValidConfigurationsRun := by
  refine ⟨fun k => ?_, fun s t hv h => ?_⟩
  · rw [valid_iff]
    refine and_congr_right fun _ => and_congr_right fun _ => and_congr_right fun hr => ?_
    exact forall₂_congr fun _ _ => channelOk_iff hr
  · rw [valid_of_step_next h] at hv
    cases hv

end Sys2Proof.Machine

namespace Sys2Proof.Machine

/-! The invariant (10_state R22): one rule per state operation, then every event of the environment by composition. -/

theorem zero_mem_channels (n : ChannelCount) : 0 ∈ n.channels := by cases n <;> decide

/-- `WRITE` has a next channel unless it is at the last one (R66). -/
theorem succ_mem_channels {n : ChannelCount} {c : Chan} (h : c ∈ n.channels) (hc : c ≠ n.last) : c + 1 ∈ n.channels := by
  revert c; cases n <;> decide

section Invariant

variable {s t : State} {c : Chan}

theorem Invariant.setOut (h : Invariant s) (o : Out) : Invariant (s.setOut o) := { h with }

theorem Invariant.take (h : Invariant s) (rest : List Event) : Invariant (s.take rest) := { h with }

theorem Invariant.setAcc (h : Invariant s) (c : Chan) (v : Word) : Invariant (s.setAcc c v) := { h with }

theorem Invariant.setTw (h : Invariant s) (c : Chan) (v : Word) : Invariant (s.setTw c v) := { h with }

theorem Invariant.setSyncLevel (h : Invariant s) (c : Chan) (l : Bool) : Invariant (s.setSyncLevel c l) := { h with }

theorem Invariant.pwmWrite (h : Invariant s) (c : Chan) (v : Byte) : Invariant (s.pwmWrite c v) := { h with }

theorem Invariant.setOffsetQ (h : Invariant s) (v : Byte) : Invariant (s.setOffsetQ v) := { h with }

theorem Invariant.setSampleQ (h : Invariant s) (v : Byte) : Invariant (s.setSampleQ v) := { h with }

theorem Invariant.setOutQ (h : Invariant s) (v : Byte) : Invariant (s.setOutQ v) := { h with }

theorem Invariant.forgetLatches (h : Invariant s) : Invariant s.forgetLatches := { h with }

theorem Invariant.setFsm {p : Phase} (h : Invariant s) (hc : c ∈ s.cfg.n.channels) (hp : p = .idle → c = 0) :
    Invariant (s.setFsm p c) :=
  { h with served := hc, idleCi := hp }

/-- Both wave registers of a channel take the same value, so they stay equal (R13). -/
theorem Invariant.setWave (h : Invariant s) (c : Chan) (w : Wave) : Invariant (s.setWave c w) :=
  { h with waves := fun d => by simp [rd_wr, h.waves d] }

theorem Invariant.setDepth {d : BitVec 11} (h : Invariant s) (c : Chan) (hd : d.toNat ≤ 1024) :
    Invariant (s.setDepth c d) :=
  { h with
    depths := fun e => by
      rw [State.setDepth_depth, rd_wr]
      split
      · exact hd
      · exact h.depths e }

/-- A counter that is compared after the increment stays below its modulus (R67). -/
theorem nextTick_lt {k : Cfg} {t : Nat} (h : t < k.tickDiv) : nextTick k t < k.tickDiv := by
  unfold nextTick tickWraps
  split <;> simp_all <;> omega

theorem nextSlow_lt {k : Cfg} {t u : Nat} (h : u < k.slowDiv) : nextSlow k t u < k.slowDiv := by
  unfold nextSlow slowWraps
  split
  · split <;> simp_all <;> omega
  · exact h

theorem Invariant.countTick (h : Invariant s) : Invariant (countTick s) :=
  { h with tickRange := nextTick_lt h.tickRange, slowRange := nextSlow_lt h.slowRange }

theorem Invariant.tickAll (h : Invariant s) : Invariant (tickAll s) :=
  have served : Invariant (s.cfg.n.channels.foldl tickChannel s) :=
    List.foldlRecOn _ _ h fun _ ht c _ => (ht.setAcc c _).pwmWrite c _
  served.countTick.forgetLatches

theorem Invariant.syncChannel (h : Invariant s) (l : BitVec 4) (c : Chan) : Invariant (syncChannel l s c) := by
  unfold Machine.syncChannel
  dsimp only
  split
  · split
    · exact (h.setSyncLevel c _).setAcc c 0
    · exact h.setSyncLevel c _
  · exact h

theorem Invariant.sampleTriggers (h : Invariant s) (l : BitVec 4) : Invariant (sampleTriggers l s) :=
  List.foldlRecOn _ _ h fun _ ht c _ => ht.syncChannel l c

/-- The depth a legal `SETDEP` stores is in range (R55, R88). -/
theorem depth_le_of_legal {k : Cfg} {c : BitVec 4} {d : BitVec 11} (h : illegal k (.setdep c d) = none) :
    d.toNat ≤ 1024 := by
  by_contra hd
  rw [not_le] at hd
  simp only [illegal, hd, if_true] at h
  split_ifs at h

theorem Invariant.waveSwitch (h : Invariant s) (c : Chan) (changed pressed : Bool) :
    Invariant (waveSwitch c changed pressed s) := by
  unfold Machine.waveSwitch
  split
  · exact h.setWave _ _
  · exact h

theorem Invariant.commandEffect {i : Instr} (h : Invariant s) (hi : illegal s.cfg i = none) :
    Invariant (commandEffect s i) := by
  cases i with
  | nop | tick | syncsmp => exact h
  | settw | setfrq => exact h.setTw _ _
  | wavsw => exact h.waveSwitch _ _ _
  | setdep => exact h.setDepth _ (depth_le_of_legal hi)

theorem Invariant.exec {i : Instr} (h : Invariant s) (ht : exec i s = .next t) : Invariant t := by
  obtain ⟨-, ⟨-, rfl⟩ | ⟨-, rfl⟩ | ⟨l, -, -, rfl⟩ | ⟨-, -, hi, rfl⟩⟩ := exec_next ht
  · exact h.setOut _
  · exact h.tickAll
  · exact (h.sampleTriggers l).setOut _
  · exact (h.commandEffect hi).setOut _

/-- Each phase hands the FSM a channel that exists, and `COUNT` hands `IDLE` channel 0 (R69). -/
theorem Invariant.microStep (h : Invariant s) : Invariant (microStep s) := by
  have h' := h.setOut outLow
  unfold Machine.microStep
  split
  · exact h'
  · exact ((h'.setAcc _ _).setOffsetQ _).setFsm h.served nofun
  · exact (h'.setSampleQ _).setFsm h.served nofun
  · exact (h'.setOutQ _).setFsm h.served nofun
  · unfold microWrite
    split
    next => exact (h'.pwmWrite _ _).setFsm h.served nofun
    next hlast => exact (h'.pwmWrite _ _).setFsm (succ_mem_channels h.served hlast) nofun
  · exact h'.countTick.forgetLatches.setFsm (zero_mem_channels _) fun _ => rfl

theorem invariant_resetOf {k : Cfg} (hk : valid k = true) : Invariant (State.resetOf k) where
  cfgValid := hk
  waves _ := rfl
  depths c := by simp [State.resetOf, rd_replicate]
  tickRange := (valid_iff.1 hk).1
  slowRange := (valid_iff.1 hk).2.1
  served := zero_mem_channels _
  idleCi _ := rfl

theorem Invariant.resetRegs (h : Invariant s) : Invariant s.resetRegs := { invariant_resetOf h.cfgValid with }

theorem Invariant.runWord {w : EventWord} (h : Invariant s) (ht : runWord w s = .next t) : Invariant t := by
  obtain ⟨i, -, he⟩ | ⟨-, -, rfl⟩ := runWord_next ht
  · exact h.exec he
  · exact h.setOut _

theorem Invariant.runCommand {w : EventWord} (h : Invariant s) (ht : runCommand w s = .next t) : Invariant t := by
  obtain ⟨i, -, he⟩ | ⟨-, -, rfl⟩ := runCommand_next ht
  · exact h.exec he
  · exact h.setOut _

theorem Invariant.endIdleCycle (h : Invariant s) (p : Pins) : Invariant (endIdleCycle p s) := by
  unfold Machine.endIdleCycle
  split
  · exact (h.sampleTriggers p.trig).setFsm (zero_mem_channels _) nofun
  · exact h.sampleTriggers p.trig

theorem Invariant.clockCycle {p : Pins} (h : Invariant s) (ht : clockCycle p s = .next t) : Invariant t := by
  obtain ⟨-, -, rfl⟩ | ⟨-, -, u, hp, rfl⟩ | ⟨-, -, -, rfl⟩ := clockCycle_next ht
  · exact h.resetRegs
  · obtain ⟨-, hc⟩ | ⟨-, -, rfl⟩ := portCycle_next hp
    · exact (h.runCommand hc).endIdleCycle p
    · exact (h.setOut _).endIdleCycle p
  · exact h.microStep

theorem Invariant.step (h : Invariant s) (ht : step s = .next t) : Invariant t := by
  obtain ⟨-, rfl, -⟩ | ⟨w, rest, -, -, hw⟩ | ⟨w, rest, -, -, hc⟩ | ⟨rest, -, -, rfl⟩ | ⟨p, rest, -, hk⟩ := step_next ht
  · exact h.microStep
  · exact (h.take rest).runWord hw
  · exact (h.take rest).runCommand hc
  · exact (h.take rest).resetRegs
  · exact (h.take rest).clockCycle hk

end Invariant

/-- Settles O51, by what each event of the environment does to the registers the invariant speaks of. -/
theorem everyStepKeepsTheInvariant : Obligations.EveryStepKeepsTheInvariant :=
  fun _ _ h ht => h.step ht

/-- Settles O50: a valid `Cfg` has moduli of at least 1, and every other item is a value of R25's table. -/
theorem invariantHoldsAfterReset : Obligations.InvariantHoldsAfterReset :=
  ⟨fun _ => invariant_resetOf, invariant_resetOf (by decide)⟩

/-- Settles O48, by reading the registers of `State.resetOf`; `State.reset` is one of its states. -/
theorem resetValuesOfEveryRegister : Obligations.ResetValuesOfEveryRegister := by
  rintro s (rfl | ⟨k, rfl⟩) <;> simp [State.reset, State.resetOf, rd_replicate]

end Sys2Proof.Machine

namespace Sys2Proof.Machine

/-! Who writes what (10_state R21), from the frame of each operation. -/

/-- Without a press edge `WAVSW` is no operation (R86). -/
theorem waveSwitch_of_ne {c : Chan} {changed pressed : Bool} {s : State} (h : ¬ (changed = true ∧ pressed = true)) :
    waveSwitch c changed pressed s = s := by
  rw [waveSwitch, if_neg (by rwa [Bool.and_eq_true])]

/-- Settles O54: a rejection writes no register, `TICK` and `SYNCSMP` write the registers of their frames, and a legal
command the register of its effect. -/
theorem eachRegisterHasItsWriters : Obligations.EachRegisterHasItsWriters := by
  intro i s t h
  obtain ⟨-, ⟨-, rfl⟩ | ⟨rfl, rfl⟩ | ⟨l, rfl, -, rfl⟩ | ⟨-, -, -, rfl⟩⟩ := exec_next h
  · simp [State.reject, SameConfig, SameControl]
  · rw [tickAll_frame]
    simp [SameConfig, SameControl]
  · rw [sampleTriggers_frame]
    simp [SameConfig, SameControl]
  · cases i with
    | wavsw c changed pressed =>
      by_cases hp : changed = true ∧ pressed = true
      · obtain ⟨rfl, rfl⟩ := hp
        simp [commandEffect, waveSwitch, SameConfig, SameControl]
      · simp [commandEffect, waveSwitch_of_ne hp, SameConfig, SameControl]
    | _ => simp [commandEffect, SameConfig, SameControl]

end Sys2Proof.Machine

namespace Sys2Proof.Machine

/-! The port's decoder accepts commands only, so a cycle of the command port raises no strobe of a tick (30_encoding
R56, 10_state R24). -/

theorem isCommand_commandOf (w : EventWord) : IsCommand (commandOf w) := by
  unfold commandOf IsCommand
  split <;> simp

theorem judge_ok {k : Cfg} {i j : Instr} (h : judge k i = .ok j) : j = i ∧ illegal k i = none := by
  unfold judge at h
  split at h
  · cases h
  · cases h
    exact ⟨rfl, ‹_›⟩

/-- What the port's decoder accepts is a legal command (R56). -/
theorem legal_of_decode_ok {k : Cfg} {w : EventWord} {i : Instr} (h : decode k w = .ok i) :
    IsCommand i ∧ illegal k i = none := by
  unfold decode at h
  split at h
  · cases h
  split at h
  · cases h
  split at h
  · cases h
  obtain ⟨rfl, hi⟩ := judge_ok h
  exact ⟨isCommand_commandOf w, hi⟩

/-- A legal command leaves all outputs low (R80). -/
theorem out_of_exec_legal {i : Instr} {s t : State} (hc : IsCommand i) (hi : illegal s.cfg i = none)
    (h : exec i s = .next t) : t.out = outLow := by
  obtain ⟨-, ⟨⟨r, hr⟩, -⟩ | ⟨ht, -⟩ | ⟨l, hl, -⟩ | ⟨-, -, -, rfl⟩⟩ := exec_next h
  · rw [hi] at hr
    cases hr
  · exact absurd ht hc.1
  · exact absurd hl (hc.2 l)
  · rfl

/-- The outputs of a word on the command port (R106). -/
theorem out_of_runCommand {w : EventWord} {s t : State} (h : runCommand w s = .next t) :
    t.out = { err := rejects s.cfg w } := by
  obtain ⟨i, hd, he⟩ | ⟨-, ⟨r, hd⟩, rfl⟩ := runCommand_next h
  · obtain ⟨hc, hi⟩ := legal_of_decode_ok hd
    rw [rejects_ok hd, out_of_exec_legal hc hi he, outLow]
  · rw [rejects_error hd, State.reject, State.setOut_out, outErr]

theorem out_of_portCycle {p : Pins} {s t : State} (h : portCycle p s = .next t) :
    t.out = { err := p.cmdValid && rejects s.cfg p.cmdWord } := by
  obtain ⟨hv, hc⟩ | ⟨hv, -, rfl⟩ := portCycle_next h
  · simp [out_of_runCommand hc, hv]
  · simp [hv, outLow]

/-- The sample and the strobe of an `IDLE` cycle raise no output (R40). -/
theorem endIdleCycle_out (p : Pins) (s : State) : (endIdleCycle p s).out = s.out := by
  unfold endIdleCycle acceptStrobe
  rw [sampleTriggers_frame]
  split <;> rfl

/-- The strobe pins of a cycle are its outputs `Out` (R24, R72, R106). -/
theorem ports_strobes {p : Pins} {s t : State} (h : clockCycle p s = .next t) :
    (ports p s).cmdErr = t.out.err ∧ (ports p s).slowStb = t.out.slowStb ∧ (ports p s).cadence = t.out.cadence := by
  obtain ⟨hr, -, rfl⟩ | ⟨hr, hp, u, hu, rfl⟩ | ⟨hr, hp, -, rfl⟩ := clockCycle_next h
  · simp [cmdReadyIn, countsIn, hr, State.resetOf]
  · simp [cmdReadyIn, countsIn, hr, hp, endIdleCycle_out, out_of_portCycle hu]
  · rw [microStep_out]
    by_cases hc : s.phase = .count
    · simp [cmdReadyIn, countsIn, hr, hc, tickOut]
    · simp [cmdReadyIn, countsIn, hp, hc, outLow]

/-! The FSM as the tick it runs (40_tick R60, R69): four cycles serve one channel, so `4m` cycles after an accepted
strobe the first `m` channels have been served. -/

theorem channels_getElem? {n : ChannelCount} {c : Chan} (h : c.val < n.count) : n.channels[c.val]? = some c := by
  revert c; cases n <;> decide

theorem channels_length (n : ChannelCount) : n.channels.length = n.count := by cases n <;> rfl

theorem count_le_four (n : ChannelCount) : n.count ≤ 4 := by cases n <;> decide

theorem mem_take_channels {n : ChannelCount} {c : Chan} (h : c.val < n.count) (m : Nat) :
    c ∈ n.channels.take m ↔ c.val < m := by
  have idx : n.channels.idxOf c = c.val := by revert c; cases n <;> decide
  rw [List.mem_take_iff_idxOf_lt ((mem_channels n c).2 h), idx]

theorem eq_last_iff (n : ChannelCount) (c : Chan) : c = n.last ↔ c.val + 1 = n.count := by
  revert c; cases n <;> decide

theorem microSteps_add (a b : Nat) (s : State) : microSteps (a + b) s = microSteps b (microSteps a s) := by
  induction a generalizing s with
  | zero => rw [Nat.zero_add, microSteps]
  | succ a ih => rw [Nat.succ_add, microSteps, ih, microSteps]

section Serving

variable {s u : State} {m r : Nat}

/-- `s` with the sequencing, the latches and the outputs of `u`: what the FSM moves besides serving channels. -/
def State.withFsm (s u : State) : State :=
  { s with
    phase := u.phase, ci := u.ci
    offsetQ := u.offsetQ, sampleQ := u.sampleQ, outQ := u.outQ
    out := u.out }

/-- What the four phases of channel `ci` leave, from `ACC` on (R62 to R66). -/
def fourCycles (u : State) : State :=
  { tickChannel u u.ci with
    phase := if u.ci = u.cfg.n.last then .count else .acc
    ci := if u.ci = u.cfg.n.last then u.ci else u.ci + 1
    offsetQ := offsetOf (tickAcc u u.ci)
    sampleQ := romRead u.cfg (rd u.waveRef u.ci) (offsetOf (tickAcc u u.ci))
    outQ := tickPwm u u.ci
    out := outLow }

theorem microSteps_four (h : u.phase = .acc) : microSteps 4 u = fourCycles u := by
  simp only [microSteps, microStep, microAcc, microLookup, microScale, microWrite, h, State.setFsm, State.setOut,
    State.setAcc, State.setOffsetQ, State.setSampleQ, State.setOutQ, State.pwmWrite, fourCycles, tickChannel]
  split <;> rfl

/-- Until its `WRITE` cycle has passed, a channel in service keeps the compare registers and the FSM busy (R66, R69). -/
theorem microSteps_lt_four (h : u.phase = .acc) (hr : r < 4) :
    (microSteps r u).phase ≠ .idle ∧ (microSteps r u).phase ≠ .count ∧ (microSteps r u).pwm = u.pwm := by
  interval_cases r <;> simp [microSteps, microStep, h, microAcc, microLookup, microScale]

/-- `u` is `s` with its first `m` channels served, about to serve channel `m`, or in `COUNT` after the last one. -/
structure Served (s : State) (m : Nat) (u : State) : Prop where
  regs : u = ((s.cfg.n.channels.take m).foldl tickChannel s).withFsm u
  acc : m < s.cfg.n.count → u.phase = .acc ∧ u.ci.val = m
  count : m = s.cfg.n.count → u.phase = .count

theorem served_acceptStrobe (s : State) : Served s 0 (acceptStrobe s) where
  regs := rfl
  acc _ := ⟨rfl, rfl⟩
  count h := by cases hn : s.cfg.n <;> simp [hn, ChannelCount.count] at h

theorem Served.cfg_eq (h : Served s m u) : u.cfg = s.cfg := by
  rw [h.regs, foldl_tickChannel_frame]
  rfl

theorem Served.counters_eq (h : Served s m u) : u.tickCnt = s.tickCnt ∧ u.slowCnt = s.slowCnt := by
  rw [h.regs, foldl_tickChannel_frame]
  exact ⟨rfl, rfl⟩

theorem Served.rd_pwm (h : Served s m u) {c : Chan} (hc : c.val < s.cfg.n.count) :
    rd u.pwm c = if c.val < m then rd (tickAll s).pwm c else rd s.pwm c := by
  rw [h.regs, tickAll_pwm, if_pos ((mem_channels _ c).2 hc)]
  simp only [← mem_take_channels hc m]
  exact (foldl_tickChannel s c _ ((channels_nodup _).take)).2

theorem Served.fourCycles (h : Served s m u) (hm : m < s.cfg.n.count) : Served s (m + 1) (microSteps 4 u) := by
  obtain ⟨hp, hci⟩ := h.acc hm
  have hlast : u.ci = u.cfg.n.last ↔ m + 1 = s.cfg.n.count := by rw [eq_last_iff, hci, h.cfg_eq]
  have htake : s.cfg.n.channels.take (m + 1) = s.cfg.n.channels.take m ++ [u.ci] := by
    rw [List.take_add_one, ← hci, channels_getElem? (hci ▸ hm), Option.toList_some]
  rw [microSteps_four hp]
  refine ⟨?_, fun hlt => ?_, fun heq => if_pos (hlast.2 heq)⟩
  · calc Machine.fourCycles u
        = (tickChannel u u.ci).withFsm (Machine.fourCycles u) := rfl
      _ = (tickChannel (((s.cfg.n.channels.take m).foldl tickChannel s).withFsm u) u.ci).withFsm
            (Machine.fourCycles u) := by rw [← h.regs]
      _ = (tickChannel ((s.cfg.n.channels.take m).foldl tickChannel s) u.ci).withFsm (Machine.fourCycles u) := rfl
      _ = _ := by rw [htake, List.foldl_append]; rfl
  · have hne : u.ci ≠ u.cfg.n.last := fun he => hlt.ne (hlast.1 he)
    have := count_le_four s.cfg.n
    refine ⟨if_neg hne, ?_⟩
    simp only [Machine.fourCycles, if_neg hne]
    rw [Fin.val_add_one_of_lt' (by omega), hci]

/-- The registers `4m` cycles into a tick. -/
theorem served_microSteps (s : State) (hm : m ≤ s.cfg.n.count) : Served s m (microSteps (4 * m) (acceptStrobe s)) := by
  induction m with
  | zero => exact served_acceptStrobe s
  | succ m ih =>
    rw [Nat.mul_succ, microSteps_add]
    exact (ih (by omega)).fourCycles hm

/-- Cycle `j + 1` of a tick, counted from the one after the strobe (R130): all of them are busy, the last alone is
`COUNT`, and channel `c` has its new compare value after its own cycle `4c + 4`. -/
theorem tickCycle {j : Nat} (hj : j ≤ 4 * s.cfg.n.count) :
    (microSteps j (acceptStrobe s)).phase ≠ .idle
      ∧ ((microSteps j (acceptStrobe s)).phase = .count ↔ j = 4 * s.cfg.n.count)
      ∧ ∀ c : Chan, c.val < s.cfg.n.count →
        rd (microSteps j (acceptStrobe s)).pwm c = if 4 * c.val + 4 ≤ j then rd (tickAll s).pwm c else rd s.pwm c := by
  have hserved : Served s (j / 4) (microSteps (4 * (j / 4)) (acceptStrobe s)) := served_microSteps s (by omega)
  have hsplit : microSteps j (acceptStrobe s) = microSteps (j % 4) (microSteps (4 * (j / 4)) (acceptStrobe s)) := by
    rw [← microSteps_add, Nat.div_add_mod]
  have hwritten (c : Chan) : 4 * c.val + 4 ≤ j ↔ c.val < j / 4 := by omega
  simp only [hwritten, hsplit]
  obtain hlt | rfl := Nat.lt_or_eq_of_le hj
  · obtain ⟨hidle, hcount, hpwm⟩ :=
      microSteps_lt_four (hserved.acc (by omega)).1 (Nat.mod_lt j (by decide))
    exact ⟨hidle, iff_of_false hcount hlt.ne, fun c hc => hpwm ▸ hserved.rd_pwm hc⟩
  · rw [Nat.mul_mod_right]
    have hcount := hserved.count (by omega)
    exact ⟨ne_of_eq_of_ne hcount nofun, iff_of_true hcount rfl, fun c hc => hserved.rd_pwm hc⟩

/-- The tick's strobes are those of the operation `TICK`, and its `COUNT` cycle shows them (R72). -/
theorem tickCycle_strobes {j : Nat} {p : Pins} (hr : p.rst = false) (hj : j ≤ 4 * s.cfg.n.count) :
    (ports p (microSteps j (acceptStrobe s))).slowStb = (decide (j = 4 * s.cfg.n.count) && (tickAll s).out.slowStb)
      ∧ (ports p (microSteps j (acceptStrobe s))).cadence
        = (decide (j = 4 * s.cfg.n.count) && (tickAll s).out.cadence) := by
  obtain ⟨-, hphase, -⟩ := tickCycle hj
  have hcounts : countsIn p (microSteps j (acceptStrobe s)) = decide (j = 4 * s.cfg.n.count) := by
    simp [countsIn, hr, ← hphase, beq_eq_decide]
  have hout : (tickAll s).out = tickOut s.cfg s.tickCnt s.slowCnt := by rw [tickAll_frame]
  rw [ports_slowStb, ports_cadence, hcounts, hout]
  by_cases hlast : j = 4 * s.cfg.n.count
  · have hserved := served_microSteps s (le_refl s.cfg.n.count)
    obtain ⟨htick, hslow⟩ := hserved.counters_eq
    rw [hlast, hserved.cfg_eq, htick, hslow]
    exact ⟨rfl, rfl⟩
  · simp [hlast]

end Serving

/-- Settles O60: the strobe pins by the cases of a clock cycle, the tick's timing by the channels it has served. -/
theorem outputPinsBelongToTheirCycle : Obligations.OutputPinsBelongToTheirCycle := by
  refine ⟨fun p s t h => ?_, fun s p j hv hr hj => ?_⟩
  · obtain ⟨herr, hslow, hcad⟩ := ports_strobes h
    refine ⟨herr, hslow, hcad, by simp, by simp [cmdReadyIn], rfl, rfl, ?_, fun c hc => ?_⟩
    · rw [ports_pwmOut, List.length_map, channels_length]
    · rw [ports_pwmOut, List.getElem?_map, channels_getElem? hc, Option.map_some]
  · obtain ⟨hidle, -, hpwm⟩ := tickCycle hj
    obtain ⟨hslow, hcad⟩ := tickCycle_strobes hr hj
    refine ⟨tickAll s, running_valid hv, ?_, ?_, ?_, hpwm⟩
    · simpa using hidle
    · rw [hslow, Bool.and_eq_true, decide_eq_true_iff, add_left_inj]
    · rw [hcad, Bool.and_eq_true, decide_eq_true_iff, add_left_inj]

end Sys2Proof.Machine

namespace Sys2Proof.Machine

/-! What a command, a trigger sample and a cycle of the FSM read and write of the state (20_memory R36, R40): a command
the parameter registers, a sample the accumulators and the stored levels, and none of them the environment's inputs. -/

/-- `s` with these events to come and this many taken (log 1). -/
def State.withInputs (s : State) (es : List Event) (n : Nat) : State := { s with inbox := es, pos := n }

/-- `s` with the registers of `u` that a trigger sample writes (R95, R96). -/
def State.withSample (s u : State) : State := { s with acc := u.acc, syncLastLevel := u.syncLastLevel }

/-- `s` with the registers of `u` that commands write (R21, R80). -/
def State.withParams (s u : State) : State :=
  { s with tw := u.tw, waveRef := u.waveRef, lastWaveIndex := u.lastWaveIndex, depth := u.depth }

section Frames

variable {u : State} (s : State) (l : BitVec 4) (i : Instr) (es : List Event) (n : Nat) (o : Out)

theorem take_eq_withInputs : s.take es = s.withInputs es (s.pos + 1) := rfl

theorem withInputs_take (es' : List Event) : (s.withInputs es n).take es' = s.withInputs es' (n + 1) := rfl

variable {s} in
/-- A sample reads the configuration, the accumulators and the stored levels only. -/
theorem sampleTriggers_eq_withSample (hcfg : u.cfg = s.cfg) (hacc : u.acc = s.acc)
    (hlevel : u.syncLastLevel = s.syncLastLevel) : sampleTriggers l u = u.withSample (sampleTriggers l s) := by
  have ha : (sampleTriggers l u).acc = (sampleTriggers l s).acc := ext_rd fun c => by
    simp only [sampleTriggers_acc, activeEdge, edge, hcfg, hacc, hlevel]
  have hl : (sampleTriggers l u).syncLastLevel = (sampleTriggers l s).syncLastLevel := ext_rd fun c => by
    simp only [sampleTriggers_level, edge, hcfg, hlevel]
  rw [sampleTriggers_frame, ha, hl, State.withSample]

variable {s} in
/-- A command reads the configuration and the parameter registers only. -/
theorem commandEffect_eq_withParams (hcfg : u.cfg = s.cfg) (hparams : SameParams s u) :
    commandEffect u i = u.withParams (commandEffect s i) := by
  obtain ⟨htw, hwave, hlast, hdepth⟩ := hparams
  cases u
  cases s
  subst hcfg htw hwave hlast hdepth
  cases i with
  | wavsw c changed pressed =>
    by_cases hp : changed = true ∧ pressed = true
    · obtain ⟨rfl, rfl⟩ := hp
      rfl
    · rw [commandEffect, commandEffect, waveSwitch_of_ne hp, waveSwitch_of_ne hp]
      rfl
  | _ => rfl

/-- A sample writes the accumulators and the stored levels only. -/
theorem sampleTriggers_self : sampleTriggers l s = s.withSample (sampleTriggers l s) :=
  sampleTriggers_frame l s

/-- A command writes the parameter registers only. -/
theorem commandEffect_self : commandEffect s i = s.withParams (commandEffect s i) :=
  commandEffect_eq_withParams i rfl ⟨rfl, rfl, rfl, rfl⟩

theorem sampleTriggers_control : SameControl s (sampleTriggers l s) := by
  rw [sampleTriggers_self]
  exact ⟨rfl, rfl, rfl, rfl⟩

theorem commandEffect_control : SameControl s (commandEffect s i) := by
  rw [commandEffect_self]
  exact ⟨rfl, rfl, rfl, rfl⟩

theorem sampleTriggers_withInputs : sampleTriggers l (s.withInputs es n) = (sampleTriggers l s).withInputs es n := by
  calc sampleTriggers l (s.withInputs es n)
      = (s.withSample (sampleTriggers l s)).withInputs es n := sampleTriggers_eq_withSample l rfl rfl rfl
    _ = (sampleTriggers l s).withInputs es n := by rw [← sampleTriggers_self]

theorem commandEffect_withInputs : commandEffect (s.withInputs es n) i = (commandEffect s i).withInputs es n := by
  calc commandEffect (s.withInputs es n) i
      = (s.withParams (commandEffect s i)).withInputs es n := commandEffect_eq_withParams i rfl ⟨rfl, rfl, rfl, rfl⟩
    _ = (commandEffect s i).withInputs es n := by rw [← commandEffect_self]

theorem commandEffect_setOut : commandEffect (s.setOut o) i = (commandEffect s i).setOut o := by
  calc commandEffect (s.setOut o) i
      = (s.withParams (commandEffect s i)).setOut o := commandEffect_eq_withParams i rfl ⟨rfl, rfl, rfl, rfl⟩
    _ = (commandEffect s i).setOut o := by rw [← commandEffect_self]

/-- R40, item 3, for the registers: neither writes what the other reads. -/
theorem sampleTriggers_commandEffect : sampleTriggers l (commandEffect s i) = commandEffect (sampleTriggers l s) i := by
  have hsample : sampleTriggers l (s.withParams (commandEffect s i))
      = (s.withParams (commandEffect s i)).withSample (sampleTriggers l s) := sampleTriggers_eq_withSample l rfl rfl rfl
  have hcommand : commandEffect (s.withSample (sampleTriggers l s)) i
      = (s.withSample (sampleTriggers l s)).withParams (commandEffect s i) :=
    commandEffect_eq_withParams i rfl ⟨rfl, rfl, rfl, rfl⟩
  calc sampleTriggers l (commandEffect s i)
      = (s.withParams (commandEffect s i)).withSample (sampleTriggers l s) := by rw [← hsample, ← commandEffect_self]
    _ = (s.withSample (sampleTriggers l s)).withParams (commandEffect s i) := rfl
    _ = commandEffect (sampleTriggers l s) i := by rw [← hcommand, ← sampleTriggers_self]

theorem microWrite_withInputs : microWrite (s.withInputs es n) = (microWrite s).withInputs es n := by
  by_cases hlast : s.ci = s.cfg.n.last
  · have hlast' : (s.withInputs es n).ci = (s.withInputs es n).cfg.n.last := hlast
    rw [microWrite, microWrite, if_pos hlast, if_pos hlast']
    rfl
  · have hlast' : (s.withInputs es n).ci ≠ (s.withInputs es n).cfg.n.last := hlast
    rw [microWrite, microWrite, if_neg hlast, if_neg hlast']
    rfl

theorem microStep_withInputs : microStep (s.withInputs es n) = (microStep s).withInputs es n := by
  have hphase : (s.withInputs es n).phase = s.phase := rfl
  unfold microStep
  rw [hphase]
  cases s.phase
  case write => exact microWrite_withInputs (s.setOut outLow) es n
  all_goals rfl

theorem microSteps_withInputs (k : Nat) : microSteps k (s.withInputs es n) = (microSteps k s).withInputs es n := by
  induction k generalizing s with
  | zero => rfl
  | succ k ih => rw [microSteps, microStep_withInputs, ih, microSteps]

/-- A cycle of the FSM takes no event. -/
theorem microStep_inputs : (microStep s).inbox = s.inbox ∧ (microStep s).pos = s.pos := by
  have h : microStep s = (microStep s).withInputs s.inbox s.pos := microStep_withInputs s s.inbox s.pos
  rw [h]
  exact ⟨rfl, rfl⟩

/-- The outputs are no register (R26). -/
theorem sameRegs_setOut : SameRegs s (s.setOut o) := by
  simp [SameRegs, SameParams, CommandFrame, SameOutputs, SameConfig, SameControl, SameLatches]

end Frames

/-! What each operation answers under a valid `Cfg`. -/

section Answers

variable {s t : State} {i : Instr} {l : BitVec 4}

/-- What a command answers, legal or not (R80, R106). -/
def commandResult (s : State) (i : Instr) : State :=
  if (illegal s.cfg i).isSome then s.reject else (commandEffect s i).setOut outLow

theorem commandResult_legal (hi : illegal s.cfg i = none) : commandResult s i = (commandEffect s i).setOut outLow := by
  simp [commandResult, hi]

theorem commandResult_cfg (s : State) (i : Instr) : (commandResult s i).cfg = s.cfg := by
  unfold commandResult
  split
  · rfl
  · exact commandEffect_cfg s i

theorem exec_command (hv : valid s.cfg = true) (hc : IsCommand i) : exec i s = .next (commandResult s i) := by
  cases i with
  | tick => exact absurd rfl hc.1
  | syncsmp l => exact absurd rfl (hc.2 l)
  | _ => exact running_valid hv

theorem exec_syncsmp (hv : valid s.cfg = true) (hl : levelsFit s.cfg l = true) :
    exec (.syncsmp l) s = .next ((sampleTriggers l s).setOut outLow) := by
  rw [exec, execSyncsmp, if_pos hl, running_valid hv]

theorem execAll_cons {is : List Instr} (h : exec i s = .next t) : execAll (i :: is) s = execAll is t := by
  rw [execAll, h]

theorem execAll_singleton (h : exec i s = .next t) : execAll [i] s = .next t := by
  rw [execAll_cons h, execAll]

end Answers

/-- Settles O47: a command and a sample read and write different registers, and the outputs of the first are lost in
both orders. -/
theorem commandAndSampleCommute : Obligations.CommandAndSampleCommute := by
  intro s i l hv hc hl
  have hcfg := commandResult_cfg s i
  have hcfg' : ((sampleTriggers l s).setOut outLow).cfg = s.cfg := sampleTriggers_cfg l s
  refine ⟨(sampleTriggers l (commandResult s i)).setOut outLow,
    commandResult ((sampleTriggers l s).setOut outLow) i, ?_, ?_, ?_⟩
  · rw [execAll_cons (exec_command hv hc), execAll_singleton (exec_syncsmp (by rwa [hcfg]) (by rwa [hcfg]))]
  · rw [execAll_cons (exec_syncsmp hv hl), execAll_singleton (exec_command (by rwa [hcfg']) hc)]
  · rw [commandResult, commandResult, hcfg']
    split
    · rw [State.reject, sampleTriggers_setOut]
      exact sameRegs_setOut _ _
    · rw [sampleTriggers_setOut, sampleTriggers_commandEffect, commandEffect_setOut]
      exact sameRegs_setOut _ _

end Sys2Proof.Machine

namespace Sys2Proof.Machine

/-! The step by the event it meets (20_memory R36, R38) and the clock cycle by the FSM's phase (R36, R40). -/

section Arbiter

variable {s u : State} {p : Pins} {w : EventWord} {rest : List Event} {i : Instr} {r : IllReason}

theorem step_word_idle (hp : s.phase = .idle) (hb : s.inbox = .word w :: rest) : step s = runWord w (s.take rest) := by
  simp [step, nextEvent, whenIdle, hp, hb]

theorem step_command_idle (hp : s.phase = .idle) (hb : s.inbox = .command w :: rest) :
    step s = runCommand w (s.take rest) := by
  simp [step, nextEvent, whenIdle, hp, hb]

theorem step_operation_busy (hp : s.phase ≠ .idle) (hb : s.inbox = .word w :: rest ∨ s.inbox = .command w :: rest) :
    step s = running s (microStep s) := by
  obtain hb | hb := hb <;> simp [step, nextEvent, whenIdle, hp, hb]

theorem step_clock (hb : s.inbox = .clock p :: rest) : step s = clockCycle p (s.take rest) := by
  simp [step, nextEvent, hb]

theorem runWord_instr (hd : decodeShape w = .instr i) : runWord w s = exec i s := by
  simp [runWord, hd]

theorem runCommand_ok (hd : decode s.cfg w = .ok i) : runCommand w s = exec i s := by
  simp [runCommand, hd]

theorem runCommand_error (hv : valid s.cfg = true) (hd : decode s.cfg w = .error r) :
    runCommand w s = .next s.reject := by
  simp [runCommand, hd, running_valid hv]

theorem clockCycle_busy (hr : p.rst = false) (hp : s.phase ≠ .idle) : clockCycle p s = running s (microStep s) := by
  simp [clockCycle, hr, hp]

theorem clockCycle_idle (hr : p.rst = false) (hp : s.phase = .idle) (hu : portCycle p s = .next u) :
    clockCycle p s = .next (endIdleCycle p u) := by
  simp [clockCycle, hr, hp, hu]

theorem portCycle_no_command (hv : valid s.cfg = true) (hc : p.cmdValid = false) :
    portCycle p s = .next (s.setOut outLow) := by
  simp [portCycle, hc, running_valid hv]

theorem portCycle_command (hc : p.cmdValid = true) : portCycle p s = runCommand p.cmdWord s := by
  simp [portCycle, hc]

/-- The port's decoder accepts legal commands only, so what it accepts is performed (R50, R56). -/
theorem exec_decoded (hv : valid s.cfg = true) (hd : decode s.cfg w = .ok i) :
    exec i s = .next ((commandEffect s i).setOut outLow) := by
  obtain ⟨hc, hi⟩ := legal_of_decode_ok hd
  rw [exec_command hv hc, commandResult_legal hi]

theorem endIdleCycle_strobe (s : State) (hs : p.tickStb = true) :
    endIdleCycle p s = acceptStrobe (sampleTriggers p.trig s) :=
  if_pos hs

theorem endIdleCycle_no_strobe (s : State) (hs : p.tickStb = false) : endIdleCycle p s = sampleTriggers p.trig s := by
  simp [endIdleCycle, hs]

/-- The strobe touches the sequencing state only, so the sample is what an `IDLE` cycle shows of the registers. -/
theorem sampled_endIdleCycle (p : Pins) (s : State) : Sampled p.trig s (endIdleCycle p s) := by
  unfold endIdleCycle
  split
  · exact sampled_sampleTriggers s p.trig
  · exact sampled_sampleTriggers s p.trig

theorem endIdleCycle_inputs (p : Pins) (s : State) :
    (endIdleCycle p s).inbox = s.inbox ∧ (endIdleCycle p s).pos = s.pos := by
  obtain ⟨-, -, hinbox, hpos⟩ := sampleTriggers_control s p.trig
  unfold endIdleCycle
  split
  · exact ⟨hinbox, hpos⟩
  · exact ⟨hinbox, hpos⟩

/-- What the command port does in an `IDLE` cycle (R50, R106). -/
theorem portCycle_answers (hv : valid s.cfg = true) (p : Pins) :
    ∃ u, portCycle p s = .next u ∧ SameControl s u
      ∧ (p.cmdValid = false → SameRegs s u ∧ u.out = {})
      ∧ (p.cmdValid = true → (∀ i, decode s.cfg p.cmdWord = .ok i → exec i s = .next u)
          ∧ ∀ r, decode s.cfg p.cmdWord = .error r → SameRegs s u ∧ u.out = { err := true }) := by
  cases hc : p.cmdValid with
  | false =>
    exact ⟨_, portCycle_no_command hv hc, ⟨rfl, rfl, rfl, rfl⟩, fun _ => ⟨sameRegs_setOut s _, rfl⟩, nofun⟩
  | true =>
    rw [portCycle_command hc]
    cases hd : decode s.cfg p.cmdWord with
    | ok i =>
      have hexec := exec_decoded hv hd
      refine ⟨_, (runCommand_ok hd).trans hexec, commandEffect_control s i, nofun, fun _ => ⟨?_, nofun⟩⟩
      rintro _ ⟨⟩
      exact hexec
    | error r =>
      exact ⟨_, runCommand_error hv hd, ⟨rfl, rfl, rfl, rfl⟩, nofun,
        fun _ => ⟨nofun, fun _ _ => ⟨sameRegs_setOut s _, rfl⟩⟩⟩

end Arbiter

/-- Settles O59: the command port's cycle, then the sample and the strobe of `endIdleCycle`. -/
theorem idleCycleTakesCommandSampleAndStrobe : Obligations.IdleCycleTakesCommandSampleAndStrobe := by
  intro s p hv hp hr
  obtain ⟨u, hu, ⟨hphase, hci, hinbox, hpos⟩, hnone, hcommand⟩ := portCycle_answers hv p
  obtain ⟨hinbox', hpos'⟩ := endIdleCycle_inputs p u
  refine ⟨u, endIdleCycle p u, clockCycle_idle hr hp hu, hnone, hcommand, sampled_endIdleCycle p u, fun hs => ?_,
    fun hs => ?_, hinbox'.trans hinbox, hpos'.trans hpos, endIdleCycle_out p u⟩
  · rw [endIdleCycle_strobe u hs]
    exact ⟨rfl, rfl⟩
  · obtain ⟨hphase', hci', -, -⟩ := sampleTriggers_control u p.trig
    rw [endIdleCycle_no_strobe u hs]
    exact ⟨hphase'.trans (hphase.trans hp), hci'.trans hci⟩

/-- Settles O35: a busy cycle without `rst` is a cycle of the FSM, whatever the pins. -/
theorem busyCyclesIgnoreTheInputPins : Obligations.BusyCyclesIgnoreTheInputPins := by
  intro p q s hp hpr hqr
  rw [clockCycle_busy hpr hp, clockCycle_busy hqr hp]

/-- Settles O11, by the step's rule for each of the two events. -/
theorem stepRunsTheDecodedInstruction : Obligations.StepRunsTheDecodedInstruction := by
  intro s w rest i hp
  refine ⟨fun hb hd => ?_, fun hb hd => ?_⟩
  · rw [step_word_idle hp hb, runWord_instr hd]
  · rw [step_command_idle hp hb, runCommand_ok (s := s.take rest) hd]

/-- Settles O12: the step is a cycle of the FSM, which takes no event. -/
theorem operationsWaitWhileTheFsmIsBusy : Obligations.OperationsWaitWhileTheFsmIsBusy := by
  intro s w rest hv hp hb
  refine ⟨microStep s, ?_, rfl, microStep_inputs s⟩
  rw [step_operation_busy hp hb, running_valid hv]

/-- Settles O53: the offset is below 256, so an address is the table's number and the offset in base 256. -/
theorem romEntriesHaveDistinctAddressesInRange : Obligations.RomEntriesHaveDistinctAddressesInRange := by
  intro w v a b
  unfold romAddr
  have ha : a.toNat < 256 := a.isLt
  have hb : b.toNat < 256 := b.isLt
  refine ⟨by omega, fun h => ⟨Fin.ext ?_, BitVec.eq_of_toNat_eq ?_⟩⟩ <;> omega

/-! No event writes the configuration (20_memory R42, 70_reset R122). -/

section Config

variable {s t : State} {p : Pins} {w : EventWord} {i : Instr}

theorem cfg_of_exec_next (h : exec i s = .next t) : t.cfg = s.cfg := by
  obtain ⟨-, -, -, -, -, -, ⟨hcfg, -⟩, -⟩ := eachRegisterHasItsWriters i s t h
  exact hcfg

theorem cfg_of_runWord_next (h : runWord w s = .next t) : t.cfg = s.cfg := by
  obtain ⟨_, -, he⟩ | ⟨-, -, rfl⟩ := runWord_next h
  · exact cfg_of_exec_next he
  · rfl

theorem cfg_of_runCommand_next (h : runCommand w s = .next t) : t.cfg = s.cfg := by
  obtain ⟨_, -, he⟩ | ⟨-, -, rfl⟩ := runCommand_next h
  · exact cfg_of_exec_next he
  · rfl

theorem cfg_of_portCycle_next (h : portCycle p s = .next t) : t.cfg = s.cfg := by
  obtain ⟨-, hc⟩ | ⟨-, -, rfl⟩ := portCycle_next h
  · exact cfg_of_runCommand_next hc
  · rfl

theorem endIdleCycle_cfg (p : Pins) (s : State) : (endIdleCycle p s).cfg = s.cfg := by
  obtain ⟨-, -, -, -, ⟨hcfg, -⟩, -⟩ := sampled_endIdleCycle p s
  exact hcfg

theorem cfg_of_clockCycle_next (h : clockCycle p s = .next t) : t.cfg = s.cfg := by
  obtain ⟨-, -, rfl⟩ | ⟨-, -, u, hu, rfl⟩ | ⟨-, -, -, rfl⟩ := clockCycle_next h
  · rfl
  · exact (endIdleCycle_cfg p u).trans (cfg_of_portCycle_next hu)
  · exact microStep_cfg s

theorem cfg_of_step_next (h : step s = .next t) : t.cfg = s.cfg := by
  obtain ⟨-, rfl, -⟩ | ⟨_, _, -, -, hw⟩ | ⟨_, _, -, -, hc⟩ | ⟨_, -, -, rfl⟩ | ⟨_, _, -, hk⟩ := step_next h
  · exact microStep_cfg s
  · exact cfg_of_runWord_next (s := s.take _) hw
  · exact cfg_of_runCommand_next (s := s.take _) hc
  · rfl
  · exact cfg_of_clockCycle_next (s := s.take _) hk

end Config

/-- Settles O52: the ROM stands in the configuration, which no event writes. -/
theorem nothingWritesTheConfigurationOrTheRom : Obligations.NothingWritesTheConfigurationOrTheRom := by
  intro s t h
  rw [cfg_of_step_next h]
  exact ⟨rfl, fun _ => rfl, id⟩

end Sys2Proof.Machine

namespace Sys2Proof.Machine

/-! The FSM's run of a tick ends in the state `TICK` gives (40_tick R71), and the clock cycles of an inbox run it
(20_memory R36). -/

section Refinement

variable {s t : State} {p : Pins} {rest : List Event} {ps : List Pins}

/-- `COUNT` after the last channel, in which the outputs and the latches of the service are lost (R20, R67). -/
theorem microSteps_tick (hp : s.phase = .idle) (hci : s.ci = 0) :
    microSteps (4 * s.cfg.n.count + 1) (acceptStrobe s) = tickAll s := by
  have hserved := served_microSteps s (le_refl s.cfg.n.count)
  rw [microSteps_add]
  generalize microSteps (4 * s.cfg.n.count) (acceptStrobe s) = u at hserved
  have hall : s.cfg.n.channels.take s.cfg.n.count = s.cfg.n.channels :=
    List.take_of_length_le (channels_length _).le
  calc microSteps 1 u
      = microCount (u.setOut outLow) := by rw [microSteps, microSteps, microStep, hserved.count rfl]
    _ = (tickAll s).setFsm .idle 0 := by rw [hserved.regs, hall]; rfl
    _ = (tickAll s).setFsm s.phase s.ci := by rw [hp, hci]
    _ = tickAll s := by rw [tickAll_frame]; rfl

theorem run_succ (k : Nat) (h : step s = .next t) : core.run (k + 1) s = core.run k t := by
  have hcore : core.step s = .next t := h
  simp [Host.Core.run, hcore]

/-- Clock events met by a busy FSM are taken one by one, and each moves it by one cycle. -/
theorem run_busy (hv : valid s.cfg = true) (hr : ∀ q ∈ ps, q.rst = false)
    (hp : ∀ j < ps.length, (microSteps j s).phase ≠ .idle) (n : Nat) :
    core.run ps.length (s.withInputs (ps.map .clock ++ rest) n)
      = .next ((microSteps ps.length s).withInputs rest (n + ps.length)) := by
  induction ps generalizing s n with
  | nil => rfl
  | cons q ps ih =>
    obtain ⟨hq, hr⟩ := List.forall_mem_cons.1 hr
    have hbusy : (s.withInputs (ps.map .clock ++ rest) (n + 1)).phase ≠ .idle := hp 0 (Nat.succ_pos _)
    have hstep : step (s.withInputs (.clock q :: (ps.map .clock ++ rest)) n)
        = .next ((microStep s).withInputs (ps.map .clock ++ rest) (n + 1)) := by
      rw [step_clock rfl, withInputs_take, clockCycle_busy hq hbusy, microStep_withInputs]
      exact running_valid hv
    rw [List.map_cons, List.cons_append, List.length_cons, run_succ _ hstep,
      ih (by rwa [microStep_cfg]) hr fun j hj => hp (j + 1) (Nat.succ_lt_succ hj), microSteps, Nat.add_right_comm,
      Nat.add_assoc]

/-- The clock events after an accepted strobe run the whole tick (R71). -/
theorem run_tick (hv : valid s.cfg = true) (hp : s.phase = .idle) (hci : s.ci = 0)
    (hlen : ps.length = 4 * s.cfg.n.count + 1) (hr : ∀ q ∈ ps, q.rst = false) (n : Nat) :
    core.run (4 * s.cfg.n.count + 1) ((acceptStrobe s).withInputs (ps.map .clock ++ rest) n)
      = .next ((tickAll s).withInputs rest (n + (4 * s.cfg.n.count + 1))) := by
  have hrun := run_busy (s := acceptStrobe s) (rest := rest) hv hr (fun j hj => (tickCycle (by omega)).1) n
  rwa [hlen, microSteps_tick hp hci] at hrun

/-- An `IDLE` cycle that accepts a command and a strobe (R40). -/
theorem step_command_strobe {i : Instr} (hv : valid s.cfg = true) (hp : s.phase = .idle) (hr : p.rst = false)
    (hc : p.cmdValid = true) (hd : decode s.cfg p.cmdWord = .ok i) (hs : p.tickStb = true)
    (hb : s.inbox = .clock p :: rest) :
    step s = .next ((acceptStrobe (sampleTriggers p.trig ((commandEffect s i).setOut outLow))).withInputs rest
      (s.pos + 1)) := by
  have hport : portCycle p (s.take rest) = .next (((commandEffect s i).setOut outLow).withInputs rest (s.pos + 1)) := by
    rw [portCycle_command hc, runCommand_ok (s := s.take rest) hd, exec_decoded (s := s.take rest) hv hd,
      take_eq_withInputs, commandEffect_withInputs]
    rfl
  rw [step_clock hb, clockCycle_idle (s := s.take rest) hr hp hport, endIdleCycle_strobe _ hs,
    sampleTriggers_withInputs]
  rfl

end Refinement

/-- Settles O36: the first cycle is the command and the sample, up to the strobe it accepts, and the cycles after it are
the tick. -/
theorem cycleLevelRefinesTheOperationLevel : Obligations.CycleLevelRefinesTheOperationLevel := by
  intro s p i ps rest hv hp hci hr hc hd hs hl hlen hrs hb
  have hstep := step_command_strobe hv hp hr hc hd hs hb
  have hexec := exec_decoded hv hd
  generalize ht : (commandEffect s i).setOut outLow = t at hstep hexec
  have htcfg : t.cfg = s.cfg := cfg_of_exec_next hexec
  have hsample : exec (.syncsmp p.trig) t = .next (sampleTriggers p.trig t) := by
    rw [exec_syncsmp (by rwa [htcfg]) (by rwa [htcfg]), ← ht, sampleTriggers_setOut]
    rfl
  obtain ⟨hphase, hci', -, -⟩ : SameControl s t := ht ▸ commandEffect_control s i
  obtain ⟨hphase', hci'', -, -⟩ := sampleTriggers_control t p.trig
  generalize sampleTriggers p.trig t = u at hstep hsample hphase' hci''
  have hcfg : u.cfg = s.cfg := (cfg_of_exec_next hsample).trans htcfg
  have hidle : u.phase = .idle := hphase'.trans (hphase.trans hp)
  have hfirst : u.ci = 0 := hci''.trans (hci'.trans hci)
  have htick : exec .tick u = .next (tickAll u) := running_valid (hcfg ▸ hv)
  rw [← hcfg] at hlen ⊢
  refine ⟨(tickAll u).withInputs rest (s.pos + (4 * u.cfg.n.count + 2)), tickAll u, ?_, ?_, rfl⟩
  · rw [run_succ _ hstep, run_tick (hcfg ▸ hv) hidle hfirst hlen hrs]
    congr 2
    omega
  · rw [execAll_cons hexec, execAll_cons hsample, execAll_singleton htick]

end Sys2Proof.Machine

namespace Sys2Proof

/-! The two decoders by the opcode's class (30_encoding R48, R51, R54, R56): a command, a reserved opcode, a port
event. -/

section Decoders

variable {k : Cfg} {w : EventWord}

theorem opcode_cases : ∀ op : BitVec 4, op < 5 ∨ reservedOp op = true ∨ op = 8 ∨ op = 9 := by decide

theorem command_opcode_cases : ∀ op : BitVec 4, op < 5 → op = 0 ∨ op = 1 ∨ op = 2 ∨ op = 3 ∨ op = 4 := by decide

theorem command_opcode_not_reserved : ∀ op : BitVec 4, op < 5 → reservedOp op = false ∧ op ≠ 8#4 ∧ op ≠ 9#4 := by decide

theorem reserved_opcode_not_named :
    ∀ op : BitVec 4, reservedOp op = true → op ≠ 0#4 ∧ op ≠ 1#4 ∧ op ≠ 2#4 ∧ op ≠ 3#4 ∧ op ≠ 4#4 ∧ op ≠ 8#4 ∧ op ≠ 9#4 := by
  decide

/-- The checks of `decodeShape`, each row's shape by the fields it fixes. -/
theorem decodeShape_fields (w : EventWord) :
    decodeShape w =
      if opOf w = 0 ∧ chOf w = 0 ∧ dataOf w = 0 then .instr .nop
      else if opOf w = 1 then .instr (.settw (chOf w) (dataOf w))
      else if opOf w = 2 ∧ (dataOf w).extractLsb' 10 22 = 0 then .instr (.setfrq (chOf w) (readingOf w))
      else if opOf w = 3 ∧ (dataOf w).extractLsb' 2 30 = 0 then .instr (.wavsw (chOf w) (changedOf w) (pressedOf w))
      else if opOf w = 4 ∧ (dataOf w).extractLsb' 11 21 = 0 then .instr (.setdep (chOf w) (dvalOf w))
      else if opOf w = 8 ∧ chOf w = 0 ∧ dataOf w = 0 then .instr .tick
      else if opOf w = 9 ∧ chOf w = 0 ∧ (dataOf w).extractLsb' 4 28 = 0 then .instr (.syncsmp (levelsOf w))
      else if reservedOp (opOf w) then .illegal .illOp
      else if opOf w = 8 then .malformed .tick
      else if opOf w = 9 then .malformed .syncsmp
      else .illegal .illRsvd := by
  simp only [decodeShape, fits_nop, fits_settw, fits_setfrq, fits_wavsw, fits_setdep, fits_tick, fits_syncsmp]

/-- A trace word with a command opcode is of its row unless a bit is set that its format reserves (R46, R52). -/
theorem decodeShape_command (h : opOf w < 5) :
    decodeShape w = if reservedBitsOf w then .illegal .illRsvd else .instr (commandOf w) := by
  rw [decodeShape_fields]
  obtain hop | hop | hop | hop | hop := command_opcode_cases _ h
  · by_cases hch : chOf w = 0#4 <;> simp [reservedBitsOf, commandOf, reservedOp, hop, hch]
  all_goals simp [reservedBitsOf, commandOf, reservedOp, hop]

theorem decodeShape_reserved (h : reservedOp (opOf w) = true) : decodeShape w = .illegal .illOp := by
  obtain ⟨h0, h1, h2, h3, h4, h8, h9⟩ := reserved_opcode_not_named _ h
  simp [decodeShape_fields, h, h0, h1, h2, h3, h4, h8, h9]

theorem decodeShape_tick (h : opOf w = 8) :
    decodeShape w = if chOf w = 0 ∧ dataOf w = 0 then .instr .tick else .malformed .tick := by
  simp [decodeShape_fields, reservedOp, h]

theorem decodeShape_syncsmp (h : opOf w = 9) :
    decodeShape w = if chOf w = 0 ∧ (dataOf w).extractLsb' 4 28 = 0 then .instr (.syncsmp (levelsOf w))
      else .malformed .syncsmp := by
  simp [decodeShape_fields, reservedOp, h]

theorem decodeShape_tick_cases (h : opOf w = 8) :
    decodeShape w = .instr .tick ∨ decodeShape w = .malformed .tick := by
  rw [decodeShape_tick h]
  exact ite_eq_or_eq _ _ _

theorem decodeShape_syncsmp_cases (h : opOf w = 9) :
    (∃ l, decodeShape w = .instr (.syncsmp l)) ∨ decodeShape w = .malformed .syncsmp := by
  rw [decodeShape_syncsmp h]
  exact (ite_eq_or_eq _ _ _).imp_left fun hd => ⟨_, hd⟩

theorem decode_command (h : opOf w < 5) :
    decode k w = if reservedBitsOf w then .error .illRsvd else judge k (commandOf w) := by
  obtain ⟨hr, h8, h9⟩ := command_opcode_not_reserved _ h
  simp [decode, hr, h8, h9]

theorem decode_reserved (h : reservedOp (opOf w) = true) : decode k w = .error .illOp := by
  rw [decode, if_pos h]

theorem decode_port (h : opOf w = 8 ∨ opOf w = 9) : decode k w = .error .illPort := by
  have hr : ∀ op : BitVec 4, op = 8 ∨ op = 9 → reservedOp op = false := by decide
  rw [decode, if_neg (by simp [hr _ h]), if_pos h]

end Decoders

/-! The encoder against the decoders: the fields of an encoded instruction (R46, R47), and back. -/

section Encoding

variable {w : EventWord} {i : Instr}

@[simp] theorem readingOf_eventWord (op ch : BitVec 4) (x : BitVec 10) :
    readingOf (eventWord op ch (0#22 ++ x)) = x := by
  rw [readingOf, dataOf_eventWord]
  exact BitVec.extractLsb'_append_eq_right

@[simp] theorem dvalOf_eventWord (op ch : BitVec 4) (x : BitVec 11) :
    dvalOf (eventWord op ch (0#21 ++ x)) = x := by
  rw [dvalOf, dataOf_eventWord]
  exact BitVec.extractLsb'_append_eq_right

@[simp] theorem levelsOf_eventWord (op ch : BitVec 4) (x : BitVec 4) :
    levelsOf (eventWord op ch (0#28 ++ x)) = x := by
  rw [levelsOf, dataOf_eventWord]
  exact BitVec.extractLsb'_append_eq_right

@[simp] theorem changedOf_eventWord (op ch : BitVec 4) (g p : Bool) :
    changedOf (eventWord op ch (0#30 ++ (BitVec.ofBool g ++ BitVec.ofBool p))) = g := by
  rw [changedOf, dataOf_eventWord]
  cases g <;> cases p <;> rfl

@[simp] theorem pressedOf_eventWord (op ch : BitVec 4) (g p : Bool) :
    pressedOf (eventWord op ch (0#30 ++ (BitVec.ofBool g ++ BitVec.ofBool p))) = p := by
  rw [pressedOf, dataOf_eventWord]
  cases g <;> cases p <;> rfl

/-- `data[1:0]` of `WAVSW` is its two operand bits (R47). -/
theorem changed_append_pressed (x : BitVec 32) :
    BitVec.ofBool (x.getLsbD 1) ++ BitVec.ofBool (x.getLsbD 0) = x.extractLsb' 0 2 := by
  refine BitVec.eq_of_getLsbD_eq fun j hj => ?_
  obtain rfl | rfl : j = 0 ∨ j = 1 := by omega
  all_goals rw [BitVec.getLsbD_append]; simp

theorem commandOf_encode (h : Machine.IsCommand i) : commandOf (encode i) = i := by
  cases i with
  | tick => exact absurd rfl h.1
  | syncsmp l => exact absurd rfl (h.2 l)
  | _ => simp [commandOf, encode, -Nat.reduceAdd]

theorem opOf_encode_command (h : Machine.IsCommand i) : opOf (encode i) < 5 := by
  cases i with
  | tick => exact absurd rfl h.1
  | syncsmp l => exact absurd rfl (h.2 l)
  | _ => simp [encode]

theorem reservedBitsOf_encode (i : Instr) : reservedBitsOf (encode i) = false := by
  cases i with
  | setfrq c reading =>
    obtain ⟨hop, hhigh⟩ := (fits_setfrq _).1 (Laws.EncodedShape.setfrq c reading)
    simp [reservedBitsOf, hop, hhigh]
  | wavsw c changed pressed =>
    obtain ⟨hop, hhigh⟩ := (fits_wavsw _).1 (Laws.EncodedShape.wavsw c changed pressed)
    simp [reservedBitsOf, hop, hhigh]
  | setdep c dval =>
    obtain ⟨hop, hhigh⟩ := (fits_setdep _).1 (Laws.EncodedShape.setdep c dval)
    simp [reservedBitsOf, hop, hhigh]
  | _ => simp [encode, reservedBitsOf]

/-- A command word without reserved bits is the encoding of its command (R48). -/
theorem encode_commandOf (h : opOf w < 5) (hbits : reservedBitsOf w = false) : encode (commandOf w) = w := by
  conv_rhs => rw [← eventWord_fields w]
  obtain hop | hop | hop | hop | hop := command_opcode_cases _ h
  · obtain ⟨hch, hdata⟩ : chOf w = 0 ∧ dataOf w = 0 := by simpa [reservedBitsOf, hop] using hbits
    simp [commandOf, encode, hop, hch, hdata]
  · simp [commandOf, encode, hop]
  · have hhigh : (dataOf w).extractLsb' 10 22 = 0 := by simpa [reservedBitsOf, hop] using hbits
    simp [commandOf, encode, hop, readingOf, low_of_high_zero _ hhigh, -Nat.reduceAdd]
  · have hhigh : (dataOf w).extractLsb' 2 30 = 0 := by simpa [reservedBitsOf, hop] using hbits
    simp [commandOf, encode, hop, changedOf, pressedOf, changed_append_pressed, low_of_high_zero _ hhigh,
      -Nat.reduceAdd, -BitVec.getLsbD_eq_getElem]
  · have hhigh : (dataOf w).extractLsb' 11 21 = 0 := by simpa [reservedBitsOf, hop] using hbits
    simp [commandOf, encode, hop, dvalOf, low_of_high_zero _ hhigh, -Nat.reduceAdd]

/-- What decodes to an instruction is its encoding (R48, R52). -/
theorem encode_of_decodeShape (h : decodeShape w = .instr i) : encode i = w := by
  obtain hop | hop | hop | hop := opcode_cases (opOf w)
  · rw [decodeShape_command hop] at h
    split at h
    · cases h
    next hbits =>
      cases h
      exact encode_commandOf hop (Bool.eq_false_of_not_eq_true hbits)
  · rw [decodeShape_reserved hop] at h
    cases h
  · rw [decodeShape_tick hop] at h
    split at h
    next hzero =>
      obtain ⟨hch, hdata⟩ := hzero
      cases h
      rw [encode, ← eventWord_fields w, hop, hch, hdata]
    · cases h
  · rw [decodeShape_syncsmp hop] at h
    split at h
    next hzero =>
      obtain ⟨hch, hhigh⟩ := hzero
      cases h
      rw [encode, levelsOf, low_of_high_zero _ hhigh, ← hop, ← hch, eventWord_fields]
    · cases h

theorem isCommand_cases (i : Instr) : Machine.IsCommand i ∨ i = .tick ∨ ∃ l, i = .syncsmp l := by
  cases i <;> simp [Machine.IsCommand]

/-- An encoded instruction decodes to itself (R46 to R48). -/
theorem decodeShape_encode (i : Instr) : decodeShape (encode i) = .instr i := by
  obtain hc | rfl | ⟨l, rfl⟩ := isCommand_cases i
  · simp [decodeShape_command (opOf_encode_command hc), reservedBitsOf_encode, commandOf_encode hc]
  · simp [decodeShape_tick, encode]
  · obtain ⟨hop, hch, hhigh⟩ := (fits_syncsmp _).1 (Laws.EncodedShape.syncsmp l)
    rw [decodeShape_syncsmp hop, if_pos ⟨hch, hhigh⟩, encode, levelsOf_eventWord]

theorem decodeShape_eq_instr_iff : decodeShape w = .instr i ↔ encode i = w :=
  ⟨encode_of_decodeShape, fun h => h ▸ decodeShape_encode i⟩

/-- The port judges an encoded command by its operands alone (R56). -/
theorem decode_encode {k : Cfg} (hc : Machine.IsCommand i) : decode k (encode i) = judge k i := by
  simp [decode_command (opOf_encode_command hc), reservedBitsOf_encode, commandOf_encode hc]

/-- The number of a word from the numbers of its fields (R45). -/
theorem eventWord_toNat (op ch : BitVec 4) (data : BitVec 32) :
    (eventWord op ch data).toNat = op.toNat * 2 ^ 36 + ch.toNat * 2 ^ 32 + data.toNat := by
  have hdata := data.isLt
  have hch := ch.isLt
  rw [eventWord, BitVec.toNat_append, BitVec.toNat_append, ← Nat.shiftLeft_add_eq_or_of_lt hdata,
    ← Nat.shiftLeft_add_eq_or_of_lt hch, Nat.shiftLeft_eq, Nat.shiftLeft_eq]
  omega

end Encoding

/-! The rows of the opcode map by their opcodes (R48). -/

section Rows

variable {w : EventWord} {r : Row}

/-- Every row masks the whole opcode (R48). -/
theorem opOf_of_fits (hr : r ∈ opcodeTable) (h : r.fits w = true) : opOf w = opOf r.pattern := by
  have hmask : ∀ r ∈ opcodeTable, opOf r.mask = BitVec.allOnes 4 := by decide
  obtain ⟨hop, -, -⟩ := (fits_iff r w).1 h
  rwa [hmask r hr, BitVec.and_allOnes] at hop

theorem opcodeTable_opcodes_differ : opcodeTable.Pairwise fun r q => opOf r.pattern ≠ opOf q.pattern := by decide

end Rows

/-- Settles O2, by the opcode's class: a command's fields are read back by `commandOf`, and no reserved bit is set. -/
theorem decodeOfEncodeGivesTheInstructionBack : Obligations.DecodeOfEncodeGivesTheInstructionBack :=
  decodeShape_encode

/-- Settles O3: a row fixes every bit of a word that is no operand. -/
theorem everyInstructionHasOneWord : Obligations.EveryInstructionHasOneWord :=
  fun _ _ => encode_of_decodeShape

/-- Settles O4: the rows have different opcodes. -/
theorem opcodeRowsNeverOverlap : Obligations.OpcodeRowsNeverOverlap := by
  refine opcodeTable_opcodes_differ.imp_of_mem fun hr hq hne w hfr => Bool.eq_false_of_not_eq_true fun hfq => ?_
  exact hne ((opOf_of_fits hr hfr).symm.trans (opOf_of_fits hq hfq))

/-- Settles O6: the fields of a word are its digits in mixed base, and a line's words stand before those of the rest. -/
theorem assembledWordsAreTheTablesNumbers : Obligations.AssembledWordsAreTheTablesNumbers := by
  refine ⟨fun c imm => ?_, fun c r => ?_, fun c g p => ?_, fun c d => ?_, fun l => ?_, rfl, rfl, rfl, fun i ls => rfl,
    fun k ls => rfl, fun c ls => rfl, fun w ls => rfl⟩ <;> rw [encode, eventWord_toNat]
  · simp
  · rw [BitVec.toNat_append]
    simp
  · have hbits : (BitVec.ofBool g ++ BitVec.ofBool p).toNat = g.toNat * 2 + p.toNat := by cases g <;> cases p <;> rfl
    rw [BitVec.toNat_append, hbits]
    simp [Nat.add_assoc]
  · rw [BitVec.toNat_append]
    simp
  · rw [BitVec.toNat_append]
    simp

/-- Settles O7, by the opcode's class, in which each decoder is one check. -/
theorem portDecoderAgreesWithTheOpcodeRows : Obligations.PortDecoderAgreesWithTheOpcodeRows := by
  intro k w
  obtain hop | hop | hop | hop := opcode_cases (opOf w)
  · rw [decodeShape_command hop, decode_command hop]
    cases reservedBitsOf w with
    | true => simp
    | false => simp [Machine.isCommand_commandOf w]
  · simp [decodeShape_reserved hop, decode_reserved hop]
  · obtain hd | hd := decodeShape_tick_cases hop <;> simp [hd, decode_port, hop, Machine.IsCommand]
  · obtain ⟨l, hd⟩ | hd := decodeShape_syncsmp_cases hop <;> simp [hd, decode_port, hop, Machine.IsCommand]

/-- Settles O1: the seven words of a row are encodings, and the two others have a reserved and a port event's opcode. -/
theorem specWordsDecodeAsTheOpcodeMapSays : Obligations.SpecWordsDecodeAsTheOpcodeMapSays :=
  ⟨decodeShape_encode .nop, decodeShape_encode (.settw 2 0x01000000), decodeShape_encode (.setfrq 0 1023),
    decodeShape_encode (.wavsw 1 true false), decodeShape_encode (.setdep 1 700), decodeShape_encode .tick,
    decodeShape_encode (.syncsmp 2), decodeShape_reserved (by decide), decodeShape_tick (by decide)⟩

/-- Settles O5: `NOP` is encoded by 0, and decoding is the converse of encoding. -/
theorem nopIsTheZeroWordOnly : Obligations.NopIsTheZeroWordOnly :=
  fun _ => decodeShape_eq_instr_iff.trans eq_comm

/-- Settles O8: the opcodes listed are the reserved ones, which R56 checks first. -/
theorem reservedAndPortOpcodesAreIllegal : Obligations.ReservedAndPortOpcodesAreIllegal := by
  have hlist : ∀ op ∈ [0x5#4, 0x6, 0x7, 0xA, 0xB, 0xC, 0xD, 0xE, 0xF], reservedOp op = true := by decide
  exact fun _ _ => ⟨fun h => decode_reserved (hlist _ h), decode_port⟩

end Sys2Proof

namespace Sys2Proof.Machine

/-! Commands by their legality (30_encoding R53, R55, R56): which operands are refused, and what a refused command
does (60_exceptions R106). -/

section Legality

variable {k : Cfg} {i : Instr} {s : State} {w : EventWord} {c levels : BitVec 4} {d : Chan} {r : IllReason}

/-- The channel is the first operand checked (R53, R56). -/
theorem illegal_of_absent_channel (hi : channelField i = some c) (h : k.n.count ≤ c.toNat) :
    illegal k i = some .illCh := by
  cases i with
  | nop | tick | syncsmp => cases hi
  | settw | setfrq | wavsw | setdep =>
    cases hi
    exact if_pos h

theorem isCommand_of_channelField (hi : channelField i = some c) : IsCommand i := by
  obtain hc | rfl | ⟨l, rfl⟩ := isCommand_cases i
  · exact hc
  · cases hi
  · cases hi

theorem decode_encode_legal (hi : channelField i = some c) (h : illegal k i = none) : decode k (encode i) = .ok i :=
  (decode_encode (isCommand_of_channelField hi)).trans (judge_legal h)

theorem decode_encode_illegal (hi : channelField i = some c) (h : illegal k i = some r) :
    decode k (encode i) = .error r :=
  (decode_encode (isCommand_of_channelField hi)).trans (judge_illegal h)

/-- A legal command is for a channel of the block (R53). -/
theorem channel_present_of_legal (hi : channelField i = some c) (h : illegal k i = none) : c.toNat < k.n.count := by
  by_contra hc
  rw [illegal_of_absent_channel hi (not_lt.1 hc)] at h
  cases h

/-- On a channel of the block `SETDEP` is the only command with an operand to check (R55). -/
theorem illegal_setdep (hd : d.val = c.toNat) (hc : c.toNat < k.n.count) (x : BitVec 11) :
    illegal k (.setdep c x) = if rd k.depthEn d = false then some .illDepthAbsent
      else if 1024 < x.toNat then some .illDepthRange else none := by
  have hch : chan c = d := Fin.ext ((chan_val k.n c hc).trans hd.symm)
  rw [illegal, if_neg (not_le.2 hc), hch]

/-- An illegal command is rejected (R106). -/
theorem exec_illegal (h : illegal s.cfg i = some r) : exec i s = running s s.reject := by
  cases i with
  | nop | tick | syncsmp => cases h
  | settw | setfrq | wavsw | setdep =>
    change perform s _ _ = _
    rw [perform, h]
    rfl

/-- A trace word with a command opcode is the same word on the command port (R51, R56). -/
theorem runWord_eq_runCommand (h8 : opOf w ≠ 8) (h9 : opOf w ≠ 9) (s : State) : runWord w s = runCommand w s := by
  unfold runWord runCommand
  obtain hop | hop | hop | hop := opcode_cases (opOf w)
  · rw [decodeShape_command hop, decode_command hop]
    cases reservedBitsOf w with
    | true => rfl
    | false =>
      cases hi : illegal s.cfg (commandOf w) with
      | none => simp [judge_legal hi]
      | some r => simp [judge_illegal hi, exec_illegal hi]
  · rw [decodeShape_reserved hop, decode_reserved hop]
  · exact absurd hop h8
  · exact absurd hop h9

theorem exec_syncsmp_unfit (h : ¬ levelsFit s.cfg levels = true) :
    exec (.syncsmp levels) s = .refused (.illFormedTrace .syncsmp s.pos) := by
  rw [exec, execSyncsmp, if_neg h]

theorem runWord_malformed {e : PortEvent} (hd : decodeShape w = .malformed e) :
    runWord w s = .refused (.illFormedTrace e s.pos) := by
  simp [runWord, hd]

/-- Level bits fit when none stands at a position `>= NUM_TRIG` (R46, R51). -/
theorem levelsFit_iff :
    levelsFit k levels = true ↔ ∀ t : Fin 4, k.numTrig.val ≤ t.val → levelAt levels t = false := by
  unfold levelsFit levelAt
  rw [decide_eq_true_iff]
  refine ⟨fun h t ht => ?_, fun h => Nat.lt_pow_two_of_testBit _ fun j hj => ?_⟩
  · exact Nat.testBit_lt_two_pow (h.trans_le (Nat.pow_le_pow_right two_pos ht))
  · rw [BitVec.testBit_toNat]
    by_cases hj4 : j < 4
    · exact h ⟨j, hj4⟩ hj
    · exact BitVec.getLsbD_of_ge _ _ (not_lt.1 hj4)

end Legality

/-- Settles O9: the channel is checked first, and a rejection writes the outputs only. -/
theorem commandForAbsentChannelTouchesNothing : Obligations.CommandForAbsentChannelTouchesNothing := by
  intro s c imm r g p d hv hc i hi
  have hfield : channelField i = some c := by
    simp only [List.mem_cons, List.not_mem_nil, or_false] at hi
    obtain rfl | rfl | rfl | rfl := hi <;> rfl
  have hill := illegal_of_absent_channel hfield hc
  refine ⟨decode_encode_illegal hfield hill, s.reject, ?_, sameRegs_setOut s _, rfl⟩
  rw [exec_illegal hill, running_valid hv]

/-- Settles O10: only `SETDEP` has a check after the channel's. -/
theorem operandRangesOfCommands : Obligations.OperandRangesOfCommands := by
  intro k c ch hch hc
  have hdepth := illegal_setdep hch hc
  refine ⟨fun d he => ?_, fun d he hd => ?_, fun d he hd => ?_, fun imm => ?_, fun r => ?_, fun g p => ?_⟩
  · exact decode_encode_illegal rfl (by rw [hdepth, if_pos he])
  · exact decode_encode_illegal rfl (by simp [hdepth, he, hd])
  · exact decode_encode_legal rfl (by simp [hdepth, he, hd])
  all_goals exact decode_encode_legal rfl (if_neg (not_le.2 hc))

/-- Settles O13: such a word is of no row, or encodes a `SYNCSMP` whose levels do not fit. -/
theorem malformedTraceWordsAreRefused : Obligations.MalformedTraceWordsAreRefused := by
  intro s w rest hp hb
  rw [step_word_idle hp hb]
  refine ⟨fun hop hne => ?_, fun hop hno => ?_⟩
  · obtain hd | hd := decodeShape_tick_cases hop
    · exact absurd (encode_of_decodeShape hd).symm hne
    · rw [runWord_malformed hd, State.take_pos]
  · obtain ⟨l, hd⟩ | hd := decodeShape_syncsmp_cases hop
    · have hfit : ¬ levelsFit s.cfg l = true := fun hfit =>
        hno ⟨l, (encode_of_decodeShape hd).symm, levelsFit_iff.1 hfit⟩
      rw [runWord_instr hd, exec_syncsmp_unfit (s := s.take rest) hfit, State.take_pos]
    · rw [runWord_malformed hd, State.take_pos]

/-! What raises `cmd_err` (R106). -/

section CmdErr

variable {k : Cfg} {i : Instr} {s t : State} {w : EventWord} {p : Pins}

theorem exists_error_of_rejects (h : rejects k w = true) : ∃ r, decode k w = .error r := by
  unfold rejects at h
  split at h
  · cases h
  · exact ⟨_, ‹_›⟩

theorem endIdleCycle_setOut (o : Out) : endIdleCycle p (s.setOut o) = (endIdleCycle p s).setOut o := by
  unfold endIdleCycle
  rw [sampleTriggers_setOut]
  split <;> rfl

theorem microStep_err (s : State) : (microStep s).out.err = false := by
  rw [microStep_out]
  split <;> rfl

theorem err_of_exec_legal (hi : illegal s.cfg i = none) (h : exec i s = .next t) : t.out.err = false := by
  obtain ⟨-, ⟨⟨r, hr⟩, -⟩ | ⟨-, rfl⟩ | ⟨l, -, -, rfl⟩ | ⟨-, -, -, rfl⟩⟩ := exec_next h
  · rw [hi] at hr
    cases hr
  all_goals rfl

/-- The two operations that exist in a trace only raise no `cmd_err` (R51, R106). -/
theorem err_of_portEvent (h : opOf w = 8 ∨ opOf w = 9) (ht : runWord w s = .next t) : t.out.err = false := by
  have hlegal {i : Instr} (hi : illegal s.cfg i = none) (hd : decodeShape w = .instr i) : t.out.err = false :=
    err_of_exec_legal hi (runWord_instr hd ▸ ht)
  have hmalformed {e : PortEvent} (hd : decodeShape w = .malformed e) : t.out.err = false := by
    rw [runWord_malformed hd] at ht
    cases ht
  obtain hop | hop := h
  · exact (decodeShape_tick_cases hop).elim (hlegal rfl) hmalformed
  · obtain ⟨l, hd⟩ | hd := decodeShape_syncsmp_cases hop
    · exact hlegal rfl hd
    · exact hmalformed hd

theorem rejects_of_runWord_err (ht : runWord w s = .next t) (he : t.out.err = true) :
    opOf w ≠ 8 ∧ opOf w ≠ 9 ∧ rejects s.cfg w = true := by
  by_cases hop : opOf w = 8 ∨ opOf w = 9
  · rw [err_of_portEvent hop ht] at he
    cases he
  · obtain ⟨h8, h9⟩ := not_or.1 hop
    rw [runWord_eq_runCommand h8 h9] at ht
    rw [out_of_runCommand ht] at he
    exact ⟨h8, h9, he⟩

theorem rejects_of_clockCycle_err (ht : clockCycle p s = .next t) (he : t.out.err = true) :
    s.phase = .idle ∧ p.rst = false ∧ p.cmdValid = true ∧ rejects s.cfg p.cmdWord = true := by
  obtain ⟨-, -, rfl⟩ | ⟨hr, hp, u, hu, rfl⟩ | ⟨-, -, -, rfl⟩ := clockCycle_next ht
  · cases he
  · rw [endIdleCycle_out, out_of_portCycle hu, Bool.and_eq_true] at he
    exact ⟨hp, hr, he⟩
  · rw [microStep_err] at he
    cases he

end CmdErr

/-- Settles O16: every arrival of an illegal command ends in a rejection, and what raises `cmd_err` is traced back through
the step's events. -/
theorem cmdErrIsRaisedByIllegalCommandsOnly : Obligations.CmdErrIsRaisedByIllegalCommandsOnly := by
  intro s
  refine ⟨fun w rest r hv hp hd hb => ?_, fun p rest r hv hp hb hr hc hd => ?_, fun t ht he => ?_⟩
  · have hreject : runCommand w (s.take rest) = .next (s.take rest).reject := runCommand_error (s := s.take rest) hv hd
    refine ⟨(s.take rest).reject, ?_, sameRegs_setOut _ _, rfl⟩
    obtain hb | ⟨hb, h8, h9⟩ := hb
    · rw [step_command_idle hp hb, hreject]
    · rw [step_word_idle hp hb, runWord_eq_runCommand h8 h9, hreject]
  · have hreject : portCycle p (s.take rest) = .next (s.take rest).reject :=
      (portCycle_command hc).trans (runCommand_error (s := s.take rest) hv hd)
    have hnone : portCycle { p with cmdValid := false } (s.take rest) = .next ((s.take rest).setOut outLow) :=
      portCycle_no_command hv rfl
    refine ⟨_, _, (step_clock hb).trans (clockCycle_idle hr hp hreject), clockCycle_idle hr hp hnone, ?_, ?_⟩
    · rw [State.reject, endIdleCycle_setOut, endIdleCycle_setOut]
      rfl
    · rw [endIdleCycle_setOut]
      rfl
  · obtain ⟨-, rfl, -⟩ | ⟨w, rest, hb, hp, hw⟩ | ⟨w, rest, hb, hp, hc⟩ | ⟨rest, -, -, rfl⟩ | ⟨p, rest, hb, hk⟩ :=
      step_next ht
    · rw [microStep_err] at he
      cases he
    · obtain ⟨h8, h9, hrej⟩ := rejects_of_runWord_err hw he
      obtain ⟨r, hd⟩ := exists_error_of_rejects hrej
      exact ⟨hp, w, rest, r, hd, .inl ⟨hb, h8, h9⟩⟩
    · rw [out_of_runCommand hc] at he
      obtain ⟨r, hd⟩ := exists_error_of_rejects he
      exact ⟨hp, w, rest, r, hd, .inr (.inl hb)⟩
    · cases he
    · obtain ⟨hp, hr, hc, hrej⟩ := rejects_of_clockCycle_err hk he
      obtain ⟨r, hd⟩ := exists_error_of_rejects hrej
      exact ⟨hp, p.cmdWord, rest, r, hd, .inr (.inr ⟨p, hb, hr, hc, rfl⟩)⟩

/-! Which channels an operation touches (R53, R60, R80, R95). -/

section Channels

variable {s : State} {i : Instr} {d : Chan}

/-- A command touches its own channel only (R80). -/
theorem commandEffect_sameChannel (h : ∀ c, channelField i = some c → chan c ≠ d) :
    SameChannel d s (commandEffect s i) := by
  cases i with
  | nop | tick | syncsmp => simp [SameChannel, commandEffect]
  | settw c | setfrq c | setdep c => simp [SameChannel, commandEffect, rd_wr, (h c rfl).symm]
  | wavsw c g p =>
    simp only [commandEffect, waveSwitch]
    split <;> simp [SameChannel, rd_wr, (h c rfl).symm]

theorem tickAll_sameChannel (h : d ∉ s.cfg.n.channels) : SameChannel d s (tickAll s) := by
  have hacc : rd (tickAll s).acc d = rd s.acc d := by rw [tickAll_acc, if_neg h]
  have hpwm : rd (tickAll s).pwm d = rd s.pwm d := by rw [tickAll_pwm, if_neg h]
  rw [tickAll_frame]
  exact ⟨hacc, rfl, rfl, rfl, rfl, rfl, hpwm⟩

theorem sampleTriggers_sameChannel (l : BitVec 4) (h : d ∉ s.cfg.n.channels) :
    SameChannel d s (sampleTriggers l s) := by
  have hacc : rd (sampleTriggers l s).acc d = rd s.acc d := by rw [sampleTriggers_acc, if_neg fun hm => h hm.1]
  have hlevel : rd (sampleTriggers l s).syncLastLevel d = rd s.syncLastLevel d := by
    rw [sampleTriggers_level, if_neg fun hm => h hm.1]
  rw [sampleTriggers_frame]
  exact ⟨hacc, rfl, rfl, rfl, rfl, hlevel, rfl⟩

end Channels

/-- Settles O57: a tick and a sample serve the channels of the block only, and a legal command names one of them. -/
theorem placesAboveTheLastChannelAreNeverTouched : Obligations.PlacesAboveTheLastChannelAreNeverTouched := by
  intro i s t d hd h
  have hmem : d ∉ s.cfg.n.channels := by rwa [mem_channels, not_lt]
  obtain ⟨-, ⟨-, rfl⟩ | ⟨-, rfl⟩ | ⟨l, -, -, rfl⟩ | ⟨-, -, hi, rfl⟩⟩ := exec_next h
  · exact ⟨rfl, rfl, rfl, rfl, rfl, rfl, rfl⟩
  · exact tickAll_sameChannel hmem
  · exact sampleTriggers_sameChannel l hmem
  · refine commandEffect_sameChannel fun c hc hcd => hmem ?_
    rw [← hcd]
    exact chan_mem _ _ (channel_present_of_legal hc hi)

end Sys2Proof.Machine

namespace Sys2Proof.Machine

/-! One tick in numbers (40_tick R62 to R67, R72): the sum, the table's entry, the scaled sample and the counters. -/

section TickValues

variable {s : State} {c : Chan} (k : Cfg) (t u : Nat)

theorem exec_tick (hv : valid s.cfg = true) : exec .tick s = .next (tickAll s) := running_valid hv

/-- The top 8 bits of the accumulator (R63). -/
theorem offsetOf_toNat (a : Word) : (offsetOf a).toNat = a.toNat / 2 ^ 24 := by
  have ha := a.isLt
  rw [offsetOf, BitVec.extractLsb'_toNat, Nat.shiftRight_eq_div_pow]
  omega

theorem scaleSample_disabled (v : Byte) (d : BitVec 11) : scaleSample false v d = v := rfl

/-- A depth in range keeps the scaled sample within 8 bits, so nothing is cut off (R65). -/
theorem scaleSample_toNat (enabled : Bool) (v : Byte) {d : BitVec 11} (hd : d.toNat ≤ 1024) :
    (scaleSample enabled v d).toNat = if enabled then v.toNat * d.toNat / 1024 else v.toNat := by
  cases enabled with
  | false => rfl
  | true =>
    have hv := v.isLt
    have hprod : v.toNat * d.toNat ≤ 255 * 1024 := Nat.mul_le_mul (by omega) hd
    rw [scaleSample, if_pos rfl, if_pos rfl, BitVec.toNat_ofNat, Nat.shiftRight_eq_div_pow]
    omega

theorem nextTick_eq : nextTick k t = if t + 1 = k.tickDiv then 0 else t + 1 := by
  simp [nextTick, tickWraps]

theorem nextSlow_eq :
    nextSlow k t u = if t + 1 = k.tickDiv then if u + 1 = k.slowDiv then 0 else u + 1 else u := by
  simp [nextSlow, tickWraps, slowWraps]

theorem slowStb_tickOut : (tickOut k t u).slowStb = true ↔ t + 1 = k.tickDiv := by
  simp [tickOut, tickWraps]

theorem cadence_tickOut : (tickOut k t u).cadence = true ↔ t + 1 = k.tickDiv ∧ u + 1 = k.slowDiv := by
  simp [tickOut, tickWraps, slowWraps]

theorem rd_acc_tickAll (hc : c ∈ s.cfg.n.channels) : rd (tickAll s).acc c = rd s.acc c + rd s.tw c := by
  rw [tickAll_acc, if_pos hc]

/-- The compare value of a tick is the scaled table entry at the new phase (R60, R63, R64). -/
theorem rd_pwm_tickAll (hc : c ∈ s.cfg.n.channels) :
    rd (tickAll s).pwm c = scaleSample (rd s.cfg.depthEn c)
      (romAt s.cfg.rom (256 * (rd s.waveRef c).val + (rd (tickAll s).acc c).toNat / 2 ^ 24)) (rd s.depth c) := by
  rw [tickAll_pwm, if_pos hc, rd_acc_tickAll hc, tickPwm, romRead, romAddr, offsetOf_toNat]

end TickValues

/-- Settles O26: the two registers of each channel by the values above, the rest by the frame of a tick. -/
theorem tickServesEveryChannelAndTheCounters : Obligations.TickServesEveryChannelAndTheCounters := by
  intro s hv
  refine ⟨tickAll s, exec_tick hv, fun c hc => ?_, fun c hc => ?_, ?_⟩
  · have hmem := (mem_channels s.cfg.n c).2 hc
    refine ⟨rd_acc_tickAll hmem, fun hd => ?_⟩
    rw [rd_pwm_tickAll hmem, scaleSample_toNat _ _ hd]
  · obtain ⟨hacc, -, -, -, -, -, hpwm⟩ := tickAll_sameChannel (s := s) (d := c) (by rwa [mem_channels, not_lt])
    exact ⟨hacc, hpwm⟩
  · rw [tickAll_frame]
    exact ⟨nextTick_eq _ _, nextSlow_eq _ _ _, slowStb_tickOut _ _ _, cadence_tickOut _ _ _, rfl,
      ⟨rfl, rfl, rfl, rfl⟩, rfl, ⟨rfl, fun _ => rfl⟩, ⟨rfl, rfl, rfl, rfl⟩⟩

/-- Settles O37: a tick computes a channel's values from that channel's registers. -/
theorem channelsDoNotInteractInATick : Obligations.ChannelsDoNotInteractInATick := by
  refine ⟨fun s u t v c hcfg hacc htw hwave hdepth hc ht hv => ?_, fun s t c d hc hd hacc htw ht => ?_⟩
  · obtain ⟨-, rfl⟩ := running_next.1 ht
    obtain ⟨-, rfl⟩ := running_next.1 hv
    have hmem := (mem_channels s.cfg.n c).2 hc
    have hmem' : c ∈ u.cfg.n.channels := hcfg ▸ hmem
    have hsame : rd (tickAll s).acc c = rd (tickAll u).acc c := by
      rw [rd_acc_tickAll hmem, rd_acc_tickAll hmem', hacc, htw]
    refine ⟨hsame, ?_⟩
    rw [rd_pwm_tickAll hmem, rd_pwm_tickAll hmem', hsame, hwave, ← hcfg]
    cases he : rd s.cfg.depthEn c with
    | false => rw [scaleSample_disabled, scaleSample_disabled]
    | true => rw [hdepth he]
  · obtain ⟨-, rfl⟩ := running_next.1 ht
    rw [rd_acc_tickAll ((mem_channels _ c).2 hc), rd_acc_tickAll ((mem_channels _ d).2 hd), hacc, htw]

end Sys2Proof.Machine

namespace Sys2Proof.Machine

/-! The cycles of the FSM by phase (40_tick R62 to R69). -/

section Phases

variable {s u : State} {p : Pins}

theorem microStep_acc (h : s.phase = .acc) : microStep s = microAcc (s.setOut outLow) := by simp [microStep, h]

theorem microStep_lookup (h : s.phase = .lookup) : microStep s = microLookup (s.setOut outLow) := by
  simp [microStep, h]

theorem microStep_scale (h : s.phase = .scale) : microStep s = microScale (s.setOut outLow) := by simp [microStep, h]

theorem microStep_count (h : s.phase = .count) : microStep s = microCount (s.setOut outLow) := by simp [microStep, h]

/-- `WRITE` of the last channel (R66). -/
theorem microStep_write_last (h : s.phase = .write) (hc : s.ci.val + 1 = s.cfg.n.count) :
    microStep s = ((s.setOut outLow).pwmWrite s.ci s.outQ).setFsm .count s.ci := by
  simp [microStep, h, microWrite, (eq_last_iff s.cfg.n s.ci).2 hc]

/-- `WRITE` of any other channel (R66). -/
theorem microStep_write_next (h : s.phase = .write) (hc : s.ci.val + 1 ≠ s.cfg.n.count) :
    microStep s = ((s.setOut outLow).pwmWrite s.ci s.outQ).setFsm .acc (s.ci + 1) := by
  simp [microStep, h, microWrite, mt (eq_last_iff s.cfg.n s.ci).1 hc]

/-- The number of the next channel does not wrap (R66). -/
theorem succ_ci_val (h : s.ci.val + 1 < s.cfg.n.count) : (s.ci + 1).val = s.ci.val + 1 :=
  Fin.val_add_one_of_lt' (h.trans_le (count_le_four s.cfg.n))

theorem clockCycle_busy_next (hv : valid s.cfg = true) (hr : p.rst = false) (hp : s.phase ≠ .idle) :
    clockCycle p s = .next (microStep s) := by
  rw [clockCycle_busy hr hp, running_valid hv]

theorem portCycle_control (h : portCycle p s = .next u) (hv : valid s.cfg = true) : SameControl s u := by
  obtain ⟨t, ht, hcontrol, -⟩ := portCycle_answers hv p
  cases h.symm.trans ht
  exact hcontrol

end Phases

/-- Settles O27, by the registers `ACC` writes. -/
theorem accCycleAddsTheTuningWord : Obligations.AccCycleAddsTheTuningWord := by
  intro s p hv hr hp
  refine ⟨_, clockCycle_busy_next hv hr (by simp [hp]), ?_⟩
  rw [microStep_acc hp]
  have hacc : rd (microAcc (s.setOut outLow)).acc s.ci = rd s.acc s.ci + rd s.tw s.ci := rd_wr_same _ _ _
  refine ⟨?_, fun d hd => rd_wr_other _ _ _ _ hd, ?_, ?_⟩
  · rw [hacc, BitVec.toNat_add]
  · rw [hacc]
    exact offsetOf_toNat _
  · simp [microAcc, outLow, SameParams, SameOutputs, SameConfig]

/-- Settles O28: `RomRead` addresses the ROM by table and offset. -/
theorem lookupCycleReadsTheWavetable : Obligations.LookupCycleReadsTheWavetable := by
  intro s p hv hr hp
  refine ⟨_, clockCycle_busy_next hv hr (by simp [hp]), ?_⟩
  rw [microStep_lookup hp]
  simp [microLookup, romRead, romAddr, outLow, SameParams, SameOutputs, SameConfig]

/-- Settles O29: a depth in range loses no bit of the product. -/
theorem scaleCycleTruncatesTheProduct : Obligations.ScaleCycleTruncatesTheProduct := by
  intro s p hv hr hp hd
  refine ⟨_, clockCycle_busy_next hv hr (by simp [hp]), ?_⟩
  rw [microStep_scale hp]
  refine ⟨scaleSample_toNat _ _ hd, ?_⟩
  simp [microScale, outLow, SameParams, SameOutputs, SameConfig]

/-- Settles O30: the last channel hands over to `COUNT`, any other to its successor. -/
theorem writeCycleWritesOneCompareRegister : Obligations.WriteCycleWritesOneCompareRegister := by
  intro s p hv hr hp hc
  refine ⟨_, clockCycle_busy_next hv hr (by simp [hp]), ?_⟩
  by_cases hlast : s.ci.val + 1 = s.cfg.n.count
  · rw [microStep_write_last hp hlast]
    refine ⟨rd_wr_same _ _ _, fun d hd => rd_wr_other _ _ _ _ hd, ?_⟩
    simp [hlast, outLow, SameParams, SameLatches, SameConfig]
  · have hsucc := succ_ci_val (s := s) (by omega)
    rw [microStep_write_next hp hlast]
    refine ⟨rd_wr_same _ _ _, fun d hd => rd_wr_other _ _ _ _ hd, ?_⟩
    simp [hlast, hsucc, outLow, SameParams, SameLatches, SameConfig]

/-- Settles O31: `COUNT` compares the incremented counters. -/
theorem countCycleMovesTheCounters : Obligations.CountCycleMovesTheCounters := by
  intro s p hv hr hp
  refine ⟨_, clockCycle_busy_next hv hr (by simp [hp]), ?_⟩
  rw [microStep_count hp]
  refine ⟨nextTick_eq s.cfg s.tickCnt, nextSlow_eq s.cfg s.tickCnt s.slowCnt,
    slowStb_tickOut s.cfg s.tickCnt s.slowCnt, cadence_tickOut s.cfg s.tickCnt s.slowCnt, rfl, rfl, ?_⟩
  simp [microCount, countTick, tickOut, SameParams, SameConfig]

/-- Settles O33: the run of a tick ends in the state of the operation. -/
theorem fsmRefinesTick : Obligations.FsmRefinesTick := by
  intro s hv hp hci
  rw [microSteps_tick hp hci, exec_tick hv]

/-- Settles O32: each row of the table by its kind of cycle, and a tick is busy up to its `COUNT` cycle. -/
theorem fsmTransitionsAreTheTables : Obligations.FsmTransitionsAreTheTables := by
  refine ⟨fun p s t hidle hc h => ?_, fun s => ⟨fun j hj => (tickCycle (by omega)).1, ?_⟩⟩
  · obtain ⟨hr, -, rfl⟩ | ⟨hr, hp, u, hu, rfl⟩ | ⟨hr, hp, -, rfl⟩ := clockCycle_next h
    · exact ⟨fun _ => ⟨rfl, rfl⟩, by simp [hr]⟩
    · obtain ⟨hphase, hci, -, -⟩ := portCycle_control hu (valid_of_clockCycle_next h)
      refine ⟨by simp [hr], fun _ => ⟨fun _ hs => ?_, fun _ hs => ?_, by simp [hp]⟩⟩
      · obtain ⟨hphase', hci', -, -⟩ := sampleTriggers_control u p.trig
        rw [endIdleCycle_no_strobe u hs]
        exact ⟨hphase'.trans (hphase.trans hp), hci'.trans (hci.trans (hidle hp))⟩
      · rw [endIdleCycle_strobe u hs]
        exact ⟨rfl, rfl⟩
    · refine ⟨by simp [hr], fun _ => ⟨fun hi => absurd hi hp, fun hi => absurd hi hp, fun ha => ?_, fun hl => ?_,
        fun hs => ?_, fun hw hlt => ?_, fun hw hlast => ?_, fun hk => ?_⟩⟩
      · rw [microStep_acc ha]
        exact ⟨rfl, rfl⟩
      · rw [microStep_lookup hl]
        exact ⟨rfl, rfl⟩
      · rw [microStep_scale hs]
        exact ⟨rfl, rfl⟩
      · rw [microStep_write_next hw hlt.ne]
        exact ⟨rfl, succ_ci_val hlt⟩
      · rw [microStep_write_last hw hlast]
        exact ⟨rfl, rfl⟩
      · rw [microStep_count hk]
        exact ⟨rfl, rfl⟩
  · have hrun := microSteps_tick (s := s.setFsm .idle 0) rfl rfl
    calc (microSteps (4 * s.cfg.n.count + 1) (acceptStrobe s)).phase
        = (tickAll (s.setFsm .idle 0)).phase := congrArg State.phase hrun
      _ = .idle := by rw [tickAll_frame]; rfl

/-! From any cycle of a tick, the cycles still to come (40_tick R69). -/

section BusyTime

variable {s : State}

/-- The cycles up to `IDLE`, by the phase and the number of the channel in service, of `n` channels. -/
def cyclesLeft (n : Nat) : Phase → Nat → Nat
  | .idle, _ => 0
  | .acc, c => 4 * (n - c) + 1
  | .lookup, c => 4 * (n - c)
  | .scale, c => 4 * (n - c) - 1
  | .write, c => 4 * (n - c) - 2
  | .count, _ => 1

theorem cyclesLeft_le (n : Nat) (p : Phase) (c : Nat) : cyclesLeft n p c ≤ 4 * n + 1 := by
  cases p <;> simp only [cyclesLeft] <;> omega

theorem cyclesLeft_eq_zero {n c : Nat} {p : Phase} (hc : c < n) (h : cyclesLeft n p c = 0) : p = .idle := by
  cases p with
  | idle => rfl
  | _ => simp only [cyclesLeft] at h; omega

/-- A busy cycle serves a channel of the block and leaves one cycle fewer. -/
theorem cyclesLeft_microStep (hc : s.ci.val < s.cfg.n.count) (hp : s.phase ≠ .idle) :
    (microStep s).ci.val < s.cfg.n.count
      ∧ cyclesLeft s.cfg.n.count s.phase s.ci.val
        = cyclesLeft s.cfg.n.count (microStep s).phase (microStep s).ci.val + 1 := by
  cases h : s.phase with
  | idle => exact absurd h hp
  | acc =>
    rw [microStep_acc h]
    exact ⟨hc, rfl⟩
  | lookup =>
    rw [microStep_lookup h]
    refine ⟨hc, ?_⟩
    simp only [microLookup, State.setFsm_phase, State.setFsm_ci, State.setOut_ci, cyclesLeft]
    omega
  | scale =>
    rw [microStep_scale h]
    refine ⟨hc, ?_⟩
    simp only [microScale, State.setFsm_phase, State.setFsm_ci, State.setOut_ci, cyclesLeft]
    omega
  | write =>
    by_cases hlast : s.ci.val + 1 = s.cfg.n.count
    · rw [microStep_write_last h hlast]
      refine ⟨hc, ?_⟩
      simp only [State.setFsm_phase, State.setFsm_ci, cyclesLeft]
      omega
    · have hsucc := succ_ci_val (s := s) (by omega)
      rw [microStep_write_next h hlast]
      simp only [State.setFsm_phase, State.setFsm_ci, hsucc, cyclesLeft]
      omega
  | count =>
    rw [microStep_count h]
    exact ⟨(mem_channels _ 0).1 (zero_mem_channels _), rfl⟩

theorem microSteps_cyclesLeft (hc : s.ci.val < s.cfg.n.count) :
    (microSteps (cyclesLeft s.cfg.n.count s.phase s.ci.val) s).phase = .idle := by
  generalize hk : cyclesLeft s.cfg.n.count s.phase s.ci.val = k
  induction k generalizing s with
  | zero => exact cyclesLeft_eq_zero hc hk
  | succ k ih =>
    have hp : s.phase ≠ .idle := fun h => by simp [h, cyclesLeft] at hk
    obtain ⟨hc', hleft⟩ := cyclesLeft_microStep hc hp
    rw [← microStep_cfg s] at hc' hleft
    exact ih hc' (by rw [microStep_cfg] at hleft ⊢; omega)

end BusyTime

/-- Settles O34: the cycles left are at most those of one whole tick. -/
theorem busyTimeIsBoundedByOneTick : Obligations.BusyTimeIsBoundedByOneTick :=
  fun _ hc => ⟨_, cyclesLeft_le _ _ _, microSteps_cyclesLeft hc⟩

end Sys2Proof.Machine

namespace Sys2Proof.Machine

/-! The phase of a channel over many operations (40_tick R68). -/

section Slope

variable {s : State} {c : Chan} {i : Instr} {is : List Instr}

/-- A legal command that is no new tuning word for the channel keeps its tuning word (R80). -/
theorem rd_tw_commandEffect (hi : illegal s.cfg i = none) (hk : KeepsSlope c s i) :
    rd (commandEffect s i).tw c = rd s.tw c := by
  have hne {d : BitVec 4} (hf : channelField i = some d) (hd : d.toNat ≠ c.val) : c ≠ chan d := by
    rintro rfl
    exact hd (chan_val _ d (channel_present_of_legal hf hi)).symm
  cases i with
  | nop | tick | syncsmp | setdep => rfl
  | settw | setfrq => exact rd_wr_other _ _ _ _ (hne rfl hk)
  | wavsw =>
    rw [commandEffect, waveSwitch]
    split <;> rfl

theorem acc_commandResult (s : State) (i : Instr) : (commandResult s i).acc = s.acc := by
  unfold commandResult
  split
  · rfl
  · rw [State.setOut_acc, commandEffect_self]
    rfl

theorem rd_tw_commandResult (hk : KeepsSlope c s i) : rd (commandResult s i).tw c = rd s.tw c := by
  cases hi : illegal s.cfg i with
  | none =>
    rw [commandResult_legal hi]
    exact rd_tw_commandEffect hi hk
  | some r => simp [commandResult, hi, State.reject]

theorem ticksOf_cons (i : Instr) (is : List Instr) : ticksOf (i :: is) = ticksOf is + if i = .tick then 1 else 0 := by
  simp [ticksOf, List.count_cons]

theorem ticksOf_concat (is : List Instr) (i : Instr) :
    ticksOf (is ++ [i]) = ticksOf is + if i = .tick then 1 else 0 := by
  simp [ticksOf, List.count_append, List.count_singleton]

/-- One operation that keeps the phase of a channel to its ticks: a `TICK` adds the tuning word, any other operation
adds nothing (R68). -/
theorem exec_of_keepsSlope (hv : valid s.cfg = true) (hc : c ∈ s.cfg.n.channels) (hk : KeepsSlope c s i) :
    ∃ t, exec i s = .next t ∧ rd t.tw c = rd s.tw c
      ∧ rd t.acc c = rd s.acc c + ((if i = .tick then 1 else 0 : Nat) : Word) * rd s.tw c := by
  obtain hcmd | rfl | ⟨l, rfl⟩ := isCommand_cases i
  · refine ⟨_, exec_command hv hcmd, rd_tw_commandResult hk, ?_⟩
    rw [acc_commandResult, if_neg hcmd.1]
    simp
  · refine ⟨_, exec_tick hv, ?_, ?_⟩
    · rw [tickAll_frame]
    · rw [rd_acc_tickAll hc]
      simp
  · obtain ⟨hl, hedge⟩ := hk
    refine ⟨_, exec_syncsmp hv hl, ?_, ?_⟩
    · rw [sampleTriggers_frame]
      rfl
    · rw [State.setOut_acc, sampleTriggers_acc, if_neg fun h => hedge ((activeEdge_iff s l c).1 h.2)]
      simp

theorem execAll_of_allKeepSlope (hv : valid s.cfg = true) (hc : c ∈ s.cfg.n.channels) (hk : AllKeepSlope c is s) :
    ∃ t, execAll is s = .next t ∧ rd t.tw c = rd s.tw c
      ∧ rd t.acc c = rd s.acc c + (ticksOf is : Word) * rd s.tw c := by
  induction is generalizing s with
  | nil => exact ⟨s, rfl, rfl, by simp [ticksOf]⟩
  | cons i is ih =>
    obtain ⟨hi, hrest⟩ := hk
    obtain ⟨t, ht, htw, hacc⟩ := exec_of_keepsSlope hv hc hi
    have hcfg := cfg_of_exec_next ht
    obtain ⟨u, hu, huw, huacc⟩ := ih (hcfg ▸ hv) (hcfg ▸ hc) (hrest t ht)
    refine ⟨u, (execAll_cons ht).trans hu, huw.trans htw, ?_⟩
    rw [huacc, htw, hacc, ticksOf_cons, Nat.cast_add]
    ring

end Slope

/-- Settles O38: the sum of the operations' contributions, read as a number modulo `2^32`. -/
theorem accumulatorIsLinearInTicks : Obligations.AccumulatorIsLinearInTicks := by
  intro is s c hv hc hk
  obtain ⟨t, ht, htw, hacc⟩ := execAll_of_allKeepSlope hv ((mem_channels _ c).2 hc) hk
  refine ⟨t, ht, htw, ?_⟩
  rw [hacc]
  simp [BitVec.toNat_add, BitVec.toNat_mul]

/-! Runs of `TICK` alone (40_tick R68). -/

section Ticks

variable {s : State} {c : Chan} (m : Nat)

theorem allKeepSlope_ticks (s : State) : AllKeepSlope c (List.replicate m .tick) s := by
  induction m generalizing s with
  | zero => trivial
  | succ m ih => exact ⟨trivial, fun t _ => ih t⟩

theorem execAll_ticks (hv : valid s.cfg = true) : execAll (List.replicate m .tick) s = .next (tickAll^[m] s) := by
  induction m generalizing s with
  | zero => rfl
  | succ m ih =>
    rw [List.replicate_succ, execAll_cons (exec_tick hv), ih (by rwa [tickAll_cfg]), Function.iterate_succ_apply]

theorem ticks_frame (s : State) : (tickAll^[m] s).cfg = s.cfg ∧ (tickAll^[m] s).waveRef = s.waveRef := by
  induction m with
  | zero => exact ⟨rfl, rfl⟩
  | succ m ih => rwa [Function.iterate_succ_apply', tickAll_frame]

theorem rd_acc_ticks (hv : valid s.cfg = true) (hc : c.val < s.cfg.n.count) :
    (rd (tickAll^[m] s).acc c).toNat = ((rd s.acc c).toNat + m * (rd s.tw c).toNat) % 2 ^ 32 := by
  obtain ⟨t, ht, -, hacc⟩ := accumulatorIsLinearInTicks _ s c hv hc (allKeepSlope_ticks m s)
  cases (execAll_ticks m hv).symm.trans ht
  rwa [ticksOf, List.count_replicate_self] at hacc

/-- The accumulator is back at its start when the ticks have added a multiple of `2^32`. -/
theorem rd_acc_ticks_eq_iff (hv : valid s.cfg = true) (hc : c.val < s.cfg.n.count) :
    rd (tickAll^[m] s).acc c = rd s.acc c ↔ 2 ^ 32 ∣ m * (rd s.tw c).toNat := by
  have hlt := (rd s.acc c).isLt
  rw [BitVec.toNat_eq, rd_acc_ticks m hv hc]
  omega

end Ticks

/-- Settles O39: `m * (2^32 / P)` is a multiple of `2^32` exactly when `P` divides `m`. -/
theorem powerOfTwoPeriod : Obligations.PowerOfTwoPeriod := by
  intro s c j hv hc _ hj htw
  have hreturns (m : Nat) : rd (tickAll^[m] s).acc c = rd s.acc c ↔ 2 ^ j ∣ m := by
    have hpow : 2 ^ 32 = 2 ^ j * 2 ^ (32 - j) := by rw [← pow_add, Nat.add_sub_cancel' hj]
    rw [rd_acc_ticks_eq_iff m hv hc, htw, hpow]
    exact Nat.mul_dvd_mul_iff_right (by positivity)
  refine ⟨⟨_, execAll_ticks _ hv, (hreturns _).2 dvd_rfl⟩, fun m hm hlt => ⟨_, execAll_ticks m hv, ?_⟩⟩
  exact mt (hreturns m).1 (Nat.not_dvd_of_pos_of_lt hm hlt)

/-- Settles O40: `k` tuning words of `2^24` move the offset by `k` entries. -/
theorem wavetableIsReadInCyclicOrder : Obligations.WavetableIsReadInCyclicOrder := by
  intro s c k hv hc hdepth htw hk
  refine ⟨_, execAll_ticks k hv, ?_⟩
  have hoffset : (rd (tickAll^[k] s).acc c).toNat / 2 ^ 24 = ((rd s.acc c).toNat / 2 ^ 24 + k) % 256 := by
    have hstep : (0x01000000 : Word).toNat = 2 ^ 24 := rfl
    rw [rd_acc_ticks k hv hc, htw, hstep]
    omega
  obtain ⟨m, rfl⟩ := Nat.exists_eq_add_one.2 hk
  obtain ⟨hcfg, hwave⟩ := ticks_frame m s
  rw [Function.iterate_succ_apply'] at hoffset ⊢
  rw [rd_pwm_tickAll (by rwa [hcfg, mem_channels]), hoffset, hcfg, hwave, hdepth, scaleSample_disabled]

/-! The counters over many operations (40_tick R67, R72). -/

section Counters

variable {k : Cfg} {s t : State} {i : Instr} {is : List Instr} {n : Nat}

theorem execAll_concat_next (h : execAll (is ++ [i]) s = .next t) :
    ∃ u, execAll is s = .next u ∧ exec i u = .next t := by
  induction is generalizing s with
  | nil =>
    refine ⟨s, rfl, ?_⟩
    rw [List.nil_append, execAll] at h
    split at h
    next v hv => rwa [← h]
    · cases h
    · cases h
  | cons j is ih =>
    rw [List.cons_append, execAll] at h
    split at h
    next v hv =>
      rw [execAll_cons hv]
      exact ih h
    · cases h
    · cases h

/-- The counters hold `n` ticks: `n` modulo `TICK_DIV`, and the quotient modulo `SLOW_DIV` (R67). -/
structure CountsTicks (k : Cfg) (n : Nat) (t : State) : Prop where
  config : t.cfg = k
  tick : t.tickCnt = n % k.tickDiv
  slow : t.slowCnt = n / k.tickDiv % k.slowDiv

theorem countsTicks_resetOf (k : Cfg) : CountsTicks k 0 (State.resetOf k) where
  config := rfl
  tick := (Nat.zero_mod _).symm
  slow := by simp [State.resetOf]

/-- A remainder reaches its modulus on the increment exactly when the modulus divides the next number. -/
theorem mod_succ_eq_iff_dvd {d : Nat} (hd : 1 ≤ d) (n : Nat) : n % d + 1 = d ↔ d ∣ n + 1 := by
  obtain ⟨e, rfl⟩ := Nat.exists_eq_add_one.2 hd
  rw [Nat.dvd_iff_mod_eq_zero, Nat.succ_mod_succ_eq_zero_iff, add_left_inj]

/-- A counter that is compared on the incremented value counts modulo its modulus. -/
theorem wrap_mod_succ {d : Nat} (hd : 1 ≤ d) (n : Nat) :
    (if n % d + 1 = d then 0 else n % d + 1) = (n + 1) % d := by
  split
  next h => exact (Nat.mod_eq_zero_of_dvd ((mod_succ_eq_iff_dvd hd n).1 h)).symm
  next h =>
    have hlt : n % d + 1 < d := (Nat.succ_le_of_lt (Nat.mod_lt n hd)).lt_of_ne h
    rw [← Nat.mod_eq_of_lt hlt, Nat.mod_add_mod]

theorem CountsTicks.tickAll (h : CountsTicks k n t) (hv : valid k = true) : CountsTicks k (n + 1) (tickAll t) := by
  obtain ⟨htick, hslow, -⟩ := valid_iff.1 hv
  obtain ⟨rfl, ht, hs⟩ := h
  rw [tickAll_frame]
  refine ⟨rfl, ?_, ?_⟩
  · rw [nextTick_eq, ht, wrap_mod_succ htick]
  · simp only [nextSlow_eq, ht, hs, wrap_mod_succ hslow, mod_succ_eq_iff_dvd htick, Nat.succ_div]
    split <;> rfl

/-- Only `TICK` moves the counters (R21). -/
theorem counters_of_exec_next (hi : i ≠ .tick) (h : exec i s = .next t) :
    t.tickCnt = s.tickCnt ∧ t.slowCnt = s.slowCnt := by
  obtain ⟨-, -, -, -, -, hwriters, -, -⟩ := eachRegisterHasItsWriters i s t h
  have hsame := mt hwriters hi
  simp only [not_or, not_not] at hsame
  exact hsame.2

theorem CountsTicks.exec (h : CountsTicks k n s) (ht : exec i s = .next t) :
    CountsTicks k (n + if i = .tick then 1 else 0) t := by
  by_cases hi : i = .tick
  · subst hi
    obtain ⟨hv, rfl⟩ := running_next.1 ht
    exact h.tickAll (h.config ▸ hv)
  · obtain ⟨htick, hslow⟩ := counters_of_exec_next hi ht
    rw [if_neg hi]
    exact ⟨(cfg_of_exec_next ht).trans h.config, htick.trans h.tick, hslow.trans h.slow⟩

/-- From reset the counters hold the `TICK`s of the operations performed (R67). -/
theorem countsTicks_execAll (h : execAll is (State.resetOf k) = .next t) : CountsTicks k (ticksOf is) t := by
  induction is using List.reverseRecOn generalizing t with
  | nil =>
    cases h
    exact countsTicks_resetOf k
  | append_singleton is i ih =>
    obtain ⟨u, hu, hi⟩ := execAll_concat_next h
    rw [ticksOf_concat]
    exact (ih hu).exec hi

end Counters

/-- Settles O41, by the counters' meaning along the operations. -/
theorem countersCountTheTicksSinceReset : Obligations.CountersCountTheTicksSinceReset := by
  intro k is t h
  obtain ⟨-, htick, hslow⟩ := countsTicks_execAll h
  exact ⟨htick, hslow⟩

/-- Settles O42: the strobes of a tick compare the counters of the ticks before it. -/
theorem slowTicksAndCadenceComeOnTime : Obligations.SlowTicksAndCadenceComeOnTime := by
  intro k is t h
  obtain ⟨u, hu, htick⟩ := execAll_concat_next h
  obtain ⟨hv, rfl⟩ := running_next.1 htick
  obtain ⟨rfl, ht, hs⟩ := countsTicks_execAll hu
  obtain ⟨htickDiv, hslowDiv, -⟩ := valid_iff.1 hv
  rw [tickAll_frame, slowStb_tickOut, cadence_tickOut, ht, hs, mod_succ_eq_iff_dvd htickDiv,
    mod_succ_eq_iff_dvd hslowDiv]
  refine ⟨Iff.rfl, fun ⟨hd, he⟩ => ?_, fun hde => ?_⟩
  · rwa [← Nat.succ_div_of_dvd hd, Nat.dvd_div_iff_mul_dvd hd] at he
  · have hd : u.cfg.tickDiv ∣ ticksOf is + 1 := dvd_of_mul_right_dvd hde
    refine ⟨hd, ?_⟩
    rwa [← Nat.succ_div_of_dvd hd, Nat.dvd_div_iff_mul_dvd hd]

end Sys2Proof.Machine

namespace Sys2Proof.Machine

/-! The tuning word over the readings (41_param R83, R85). -/

section TuningWord

variable {k : Cfg} {c : Chan} {r q : Nat}

/-- What validity says of a channel of the block (items 2, 3 and 4 of R8). -/
theorem tuning_of_valid (hv : valid k = true) (hc : c.val < k.n.count) :
    0 < k.tickRate ∧ 0 ≤ rd k.minFreq c ∧ rd k.minFreq c ≤ rd k.maxFreq c ∧ tuningWord k c 1023 < 2 ^ 32 := by
  obtain ⟨-, -, hrate, hchannels⟩ := valid_iff.1 hv
  obtain ⟨⟨hlo, hhi⟩, hword, -⟩ := (channelOk_iff hrate).1 (hchannels c hc)
  exact ⟨hrate, hlo, hhi, (tuningWord_lt_iff hrate 1023).2 hword⟩

theorem freq_mono (h : rd k.minFreq c ≤ rd k.maxFreq c) (hrq : r ≤ q) : freq k c r ≤ freq k c q := by
  have hspan := sub_nonneg.2 h
  unfold freq
  gcongr

theorem tuningX_mono (hrate : 0 < k.tickRate) (h : rd k.minFreq c ≤ rd k.maxFreq c) (hrq : r ≤ q) :
    tuningX k c r ≤ tuningX k c q := by
  have hfreq := freq_mono h hrq
  unfold tuningX
  gcongr

/-- The tuning word never decreases with the reading (R85, item 1). -/
theorem tuningWord_mono (hrate : 0 < k.tickRate) (h : rd k.minFreq c ≤ rd k.maxFreq c) (hrq : r ≤ q) :
    tuningWord k c r ≤ tuningWord k c q := by
  have hX := tuningX_mono hrate h hrq
  rw [tuningWord_eq_toNat_floor hrate, tuningWord_eq_toNat_floor hrate]
  exact Int.toNat_le_toNat (Int.floor_le_floor (by gcongr))

theorem tuningX_zero (k : Cfg) (c : Chan) : tuningX k c 0 = 2 ^ 32 * rd k.minFreq c / k.tickRate := by
  simp [tuningX, freq]

theorem tuningX_full (k : Cfg) (c : Chan) : tuningX k c 1023 = 2 ^ 32 * rd k.maxFreq c / k.tickRate := by
  simp [tuningX, freq]

theorem tuningX_nonneg (hv : valid k = true) (hc : c.val < k.n.count) (r : Nat) : 0 ≤ tuningX k c r := by
  obtain ⟨hrate, hlo, hhi, -⟩ := tuning_of_valid hv hc
  calc 0 ≤ tuningX k c 0 := by rw [tuningX_zero]; positivity
    _ ≤ tuningX k c r := tuningX_mono hrate hhi r.zero_le

/-- On a channel of the block no value is cut off at 0, so the tuning word is the rounded rational itself (R83). -/
theorem tuningWord_eq_floor (hv : valid k = true) (hc : c.val < k.n.count) (r : Nat) :
    (tuningWord k c r : Int) = ⌊tuningX k c r + 1 / 2⌋ := by
  obtain ⟨hrate, -⟩ := tuning_of_valid hv hc
  have hX := tuningX_nonneg hv hc r
  rw [tuningWord_eq_toNat_floor hrate, Int.toNat_of_nonneg (Int.floor_nonneg.2 (by positivity))]

/-- The word of every reading fits where the word of the highest does (R8, item 4). -/
theorem tuningWord_lt (hv : valid k = true) (hc : c.val < k.n.count) (hr : r ≤ 1023) : tuningWord k c r < 2 ^ 32 := by
  obtain ⟨hrate, -, hhi, hfull⟩ := tuning_of_valid hv hc
  exact (tuningWord_mono hrate hhi hr).trans_lt hfull

/-- The exact rational is within one half of the tuning word (R83). -/
theorem abs_tuningWord_sub_tuningX_le (hv : valid k = true) (hc : c.val < k.n.count) (r : Nat) :
    |(tuningWord k c r : ℚ) - tuningX k c r| ≤ 1 / 2 := by
  have hround : (tuningWord k c r : ℚ) = (round (tuningX k c r) : ℤ) := by
    rw [round_eq, ← tuningWord_eq_floor hv hc r, Int.cast_natCast]
  rw [hround, abs_sub_comm]
  exact abs_sub_round _

/-- The frequency error is the rounding error at the scale of one step of the tuning word (R68 law 3). -/
theorem outputFreq_sub_freq (hrate : 0 < k.tickRate) (w r : Nat) :
    outputFreq k w - freq k c r = (w - tuningX k c r) * (k.tickRate / 2 ^ 32) := by
  unfold outputFreq tuningX
  field_simp

/-- A reading is at most 1023. -/
theorem reading_le (r : BitVec 10) : r.toNat ≤ 1023 := Nat.le_of_lt_succ r.isLt

/-- The register holds the whole tuning word of a reading (R83). -/
theorem toNat_ofNat_tuningWord (hv : valid k = true) (hc : c.val < k.n.count) (r : BitVec 10) :
    (BitVec.ofNat 32 (tuningWord k c r.toNat)).toNat = tuningWord k c r.toNat := by
  rw [BitVec.toNat_ofNat, Nat.mod_eq_of_lt (tuningWord_lt hv hc (reading_le r))]

end TuningWord

/-- Settles O19: on a channel of a valid `Cfg` the rational is never negative and the word fits at the highest
reading. -/
theorem tuningWordIsTheExactRationalRoundedHalfUp : Obligations.TuningWordIsTheExactRationalRoundedHalfUp := by
  intro k c r hv hc hr
  obtain ⟨hrate, -⟩ := tuning_of_valid hv hc
  refine ⟨?_, tuningX_nonneg hv hc r, tuningWord_eq_floor hv hc r, Nat.le_sub_one_of_lt (tuningWord_lt hv hc hr)⟩
  unfold tuningX freq
  field_simp

end Sys2Proof.Machine

namespace Sys2Proof.Machine

/-! What a command answers and leaves alone (20_memory R40, 41_param R80): the shared part of every command of the
control side. -/

section Commands

variable {k : Cfg} {s t u : State} {i : Instr} {c d : Chan} {w : EventWord}

theorem CommandFrame.refl (s : State) : CommandFrame s s := (sameRegs_setOut s s.out).2

theorem CommandFrame.trans (h : CommandFrame s t) (h' : CommandFrame t u) : CommandFrame s u := by
  simp only [CommandFrame, SameOutputs, SameConfig, SameControl, SameLatches] at h h' ⊢
  simp_all

theorem commandFrame_setOut_commandEffect (s : State) (i : Instr) (o : Out) :
    CommandFrame s ((commandEffect s i).setOut o) := by
  rw [commandEffect_self]
  exact CommandFrame.refl s

theorem commandFrame_commandResult (s : State) (i : Instr) : CommandFrame s (commandResult s i) := by
  unfold commandResult
  split
  · exact CommandFrame.refl s
  · exact commandFrame_setOut_commandEffect s i outLow

theorem exec_legal (hv : valid s.cfg = true) (hc : IsCommand i) (hi : illegal s.cfg i = none) :
    exec i s = .next ((commandEffect s i).setOut outLow) := by
  rw [exec_command hv hc, commandResult_legal hi]

/-- The outputs of a tick stay low under a command (R80, R106). -/
theorem commandResult_strobes (s : State) (i : Instr) :
    (commandResult s i).out.slowStb = false ∧ (commandResult s i).out.cadence = false := by
  unfold commandResult
  split <;> exact ⟨rfl, rfl⟩

theorem commandResult_sameChannel (h : ∀ c, channelField i = some c → c.toNat ≠ d.val) :
    SameChannel d s (commandResult s i) := by
  cases hi : illegal s.cfg i with
  | some r =>
    rw [commandResult, hi]
    exact ⟨rfl, rfl, rfl, rfl, rfl, rfl, rfl⟩
  | none =>
    rw [commandResult_legal hi]
    refine commandEffect_sameChannel fun c hc hcd => h c hc ?_
    rw [← hcd, chan_val _ c (channel_present_of_legal hc hi)]

/-- On a channel of the block these commands are legal whatever their operand (R53). -/
theorem legal_of_channel_present {c : BitVec 4} (hc : c.toNat < k.n.count) :
    (∀ imm, illegal k (.settw c imm) = none) ∧ (∀ r, illegal k (.setfrq c r) = none)
      ∧ ∀ g p, illegal k (.wavsw c g p) = none :=
  have hc := not_le.2 hc
  ⟨fun _ => if_neg hc, fun _ => if_neg hc, fun _ _ => if_neg hc⟩

/-- The channel a present channel field names. -/
theorem eq_chan_iff {n : ChannelCount} {c : BitVec 4} (hc : c.toNat < n.count) : d = chan c ↔ d.val = c.toNat := by
  rw [Fin.ext_iff, chan_val n c hc]

/-- A set reserved bit makes a command word illegal, whatever its operands (R52, R56). -/
theorem decode_of_reservedBits (hop : opOf w < 5) (h : reservedBitsOf w = true) : decode k w = .error .illRsvd := by
  rw [decode_command hop, if_pos h]

/-- Nine waves, cyclically (R86). -/
theorem nextWave_val (w : Wave) : (nextWave w).val = (w.val + 1) % 9 := rfl

/-- A press edge advances both wave registers of its channel to the wave after the last (R86). -/
theorem waveSwitch_press (c : Chan) (s : State) :
    waveSwitch c true true s = s.setWave c (nextWave (rd s.lastWaveIndex c)) := rfl

end Commands

/-- Settles O56: a command writes parameter registers only, and a legal one those of the channel it names. -/
theorem commandsTouchTheirOwnChannelOnly : Obligations.CommandsTouchTheirOwnChannelOnly := by
  intro i s t hc h
  rw [exec_command (exec_next h).1 hc] at h
  cases h
  obtain ⟨hslow, hcadence⟩ := commandResult_strobes s i
  exact ⟨commandFrame_commandResult s i, hslow, hcadence, fun d => commandResult_sameChannel⟩

/-- Settles O17: `NOP` has no effect, and the zero word is the only word of its opcode without a reserved bit. -/
theorem nopChangesNothing : Obligations.NopChangesNothing := by
  refine ⟨fun s hv => ⟨_, exec_legal hv (by simp [IsCommand]) rfl, sameRegs_setOut s outLow, rfl⟩, fun k => ⟨rfl, ?_⟩⟩
  intro w hop hset
  exact decode_of_reservedBits (by simp [hop]) (by simpa [reservedBitsOf, hop] using hset)

/-- Settles O18: one write to `tw` where the channel is there, and the channel check where it is not. -/
theorem settwStoresTheTuningWord : Obligations.SettwStoresTheTuningWord := by
  intro s c imm hv
  refine ⟨fun hc => ?_, by simp [encode], fun hc => decode_encode_illegal rfl (illegal_of_absent_channel rfl hc)⟩
  obtain ⟨hlegal, -⟩ := legal_of_channel_present hc
  refine ⟨_, exec_legal hv (isCommand_of_channelField rfl) (hlegal imm), fun ch => ?_, rfl, rfl, rfl,
    commandFrame_setOut_commandEffect s _ _, rfl⟩
  simp [commandEffect, rd_wr, eq_chan_iff hc]

/-- Settles O20: the word stored is the tuning word of the channel, which fits its register. -/
theorem setfrqStoresTheTuningWordOfTheReading : Obligations.SetfrqStoresTheTuningWordOfTheReading := by
  intro s c r hv
  refine ⟨fun hc => ?_, fun hc => decode_encode_illegal rfl (illegal_of_absent_channel rfl hc), fun w hop hset => ?_⟩
  · obtain ⟨-, hlegal, -⟩ := legal_of_channel_present hc
    refine ⟨_, exec_legal hv (isCommand_of_channelField rfl) (hlegal r), fun ch hch => ?_, fun ch hch => ?_, rfl, rfl, rfl,
      commandFrame_setOut_commandEffect s _ _, rfl⟩
    · obtain rfl := (eq_chan_iff hc).2 hch
      have hpresent : (chan c).val < s.cfg.n.count := by rwa [chan_val _ c hc]
      rw [← tuningWord_eq_floor hv hpresent, ← toNat_ofNat_tuningWord hv hpresent]
      simp [commandEffect]
    · exact rd_wr_other _ _ _ _ (mt (eq_chan_iff hc).1 hch)
  · exact decode_of_reservedBits (by simp [hop]) (by simpa [reservedBitsOf, hop] using hset)

/-- Settles O22: a press edge writes the two wave registers of the channel, and any other switch state none. -/
theorem wavswAdvancesOnAPressEdgeOnly : Obligations.WavswAdvancesOnAPressEdgeOnly := by
  intro s c g p hv
  refine ⟨fun hc => ?_, fun hc => decode_encode_illegal rfl (illegal_of_absent_channel rfl hc), fun w hop hset => ?_⟩
  · obtain ⟨-, -, hlegal⟩ := legal_of_channel_present hc
    refine ⟨_, exec_legal hv (isCommand_of_channelField rfl) (hlegal g p), ?_⟩
    have hframe := commandFrame_setOut_commandEffect s (.wavsw c g p) outLow
    by_cases hpress : g = true ∧ p = true
    · obtain ⟨rfl, rfl⟩ := hpress
      refine ⟨fun ch hch _ _ => ?_, fun ch hch => ?_, rfl, rfl, hframe, rfl⟩
      · obtain rfl := (eq_chan_iff hc).2 hch
        simp [commandEffect, waveSwitch_press, nextWave_val]
      · have hne : ch ≠ chan c := by simpa [eq_chan_iff hc] using hch
        simp [commandEffect, waveSwitch_press, rd_wr, hne]
    · rw [commandEffect, waveSwitch_of_ne hpress] at hframe ⊢
      exact ⟨fun _ _ hg hp => absurd ⟨hg, hp⟩ hpress, fun _ _ => ⟨rfl, rfl⟩, rfl, rfl, hframe, rfl⟩
  · exact decode_of_reservedBits (by simp [hop]) (by simpa [reservedBitsOf, hop] using hset)

/-- Settles O24: one write to `depth` where every operand is legal, and the checks in the order of `illegal`. -/
theorem setdepStoresTheDepth : Obligations.SetdepStoresTheDepth := by
  intro s c d ch hv hch
  obtain rfl : ch = chan c := Fin.ext hch
  refine ⟨fun hc hen hd => ?_, fun w hop hset => ?_, ?_⟩
  · have hlegal : illegal s.cfg (.setdep c d) = none := by simp [illegal_setdep (chan_val _ c hc) hc, hen, hd]
    refine ⟨_, exec_legal hv (isCommand_of_channelField rfl) hlegal, rd_wr_same _ _ _, fun e he => rd_wr_other _ _ _ _ he,
      rfl, rfl, rfl, commandFrame_setOut_commandEffect s _ _, rfl⟩
  · exact decode_of_reservedBits (by simp [hop]) (by simpa [reservedBitsOf, hop] using hset)
  · rw [decode_encode (isCommand_of_channelField rfl), judge, illegal]
    split_ifs <;> rfl

end Sys2Proof.Machine

namespace Sys2Proof.Machine

/-! `SETFRQ` and `WAVSW` issued again and again (41_param R85, R87). -/

section Repetition

variable {s t : State} {i : Instr} {is : List Instr} {c : BitVec 4}

theorem execAll_commands (hv : valid s.cfg = true) (hc : ∀ i ∈ is, IsCommand i) :
    execAll is s = .next (is.foldl commandResult s) := by
  induction is generalizing s with
  | nil => rfl
  | cons i is ih =>
    obtain ⟨hi, his⟩ := List.forall_mem_cons.1 hc
    rw [execAll_cons (exec_command hv hi), List.foldl_cons]
    exact ih (by rwa [commandResult_cfg]) his

theorem execAll_replicate_command (hv : valid s.cfg = true) (hc : IsCommand i) (j : Nat) :
    execAll (List.replicate j i) s = .next ((List.replicate j i).foldl commandResult s) :=
  execAll_commands hv fun _ h => List.eq_of_mem_replicate h ▸ hc

theorem commandFrame_foldl_commandResult (s : State) (is : List Instr) : CommandFrame s (is.foldl commandResult s) := by
  induction is generalizing s with
  | nil => exact CommandFrame.refl s
  | cons i is ih => exact (commandFrame_commandResult s i).trans (ih _)

theorem foldl_commandResult_cfg (s : State) (is : List Instr) : (is.foldl commandResult s).cfg = s.cfg := by
  obtain ⟨-, -, -, ⟨hcfg, -⟩, -⟩ := commandFrame_foldl_commandResult s is
  exact hcfg

/-- The tuning word of a reading does not depend on what the register held (R85, item 4). -/
theorem rd_tw_setfrq (r : BitVec 10) (h : t.cfg = s.cfg) :
    rd (commandEffect t (.setfrq c r)).tw (chan c) = rd (commandEffect s (.setfrq c r)).tw (chan c) := by
  simp [commandEffect, h]

/-- A second `SETFRQ` stores the same word again (R85, item 4). -/
theorem setfrq_idempotent (s : State) (c : BitVec 4) (r : BitVec 10) :
    commandEffect (commandEffect s (.setfrq c r)) (.setfrq c r) = commandEffect s (.setfrq c r) := by
  simp [commandEffect, State.setTw, wr]

/-- Without a press edge `WAVSW` writes no wave register, legal or not (R87). -/
theorem waves_commandResult_no_press (s : State) (c : BitVec 4) (p : Bool) :
    (commandResult s (.wavsw c false p)).waveRef = s.waveRef
      ∧ (commandResult s (.wavsw c false p)).lastWaveIndex = s.lastWaveIndex := by
  unfold commandResult
  split <;> exact ⟨rfl, rfl⟩

theorem waves_replicate_no_press (s : State) (c : BitVec 4) (p : Bool) (j : Nat) :
    ((List.replicate j (.wavsw c false p)).foldl commandResult s).waveRef = s.waveRef
      ∧ ((List.replicate j (.wavsw c false p)).foldl commandResult s).lastWaveIndex = s.lastWaveIndex := by
  induction j generalizing s with
  | zero => exact ⟨rfl, rfl⟩
  | succ j ih =>
    obtain ⟨href, hlast⟩ := ih (commandResult s (.wavsw c false p))
    obtain ⟨href', hlast'⟩ := waves_commandResult_no_press s c p
    exact ⟨href.trans href', hlast.trans hlast'⟩

/-- A press edge on a channel of the block takes both its wave registers to the wave after the last (R86). -/
theorem waves_commandResult_press (hc : c.toNat < s.cfg.n.count) :
    rd (commandResult s (.wavsw c true true)).lastWaveIndex (chan c) = nextWave (rd s.lastWaveIndex (chan c))
      ∧ rd (commandResult s (.wavsw c true true)).waveRef (chan c) = nextWave (rd s.lastWaveIndex (chan c)) := by
  obtain ⟨-, -, hlegal⟩ := legal_of_channel_present hc
  rw [commandResult_legal (hlegal true true)]
  exact ⟨rd_wr_same _ _ _, rd_wr_same _ _ _⟩

/-- `j` press edges advance by `j` waves (R87). -/
theorem waves_replicate_press (hc : c.toNat < s.cfg.n.count) (j : Nat) :
    (rd ((List.replicate j (.wavsw c true true)).foldl commandResult s).lastWaveIndex (chan c)).val
        = ((rd s.lastWaveIndex (chan c)).val + j) % 9
      ∧ (0 < j → rd ((List.replicate j (.wavsw c true true)).foldl commandResult s).waveRef (chan c)
        = rd ((List.replicate j (.wavsw c true true)).foldl commandResult s).lastWaveIndex (chan c)) := by
  induction j with
  | zero => exact ⟨(Nat.mod_eq_of_lt (rd s.lastWaveIndex (chan c)).isLt).symm, fun h => absurd h (lt_irrefl 0)⟩
  | succ j ih =>
    obtain ⟨hlast, -⟩ := ih
    rw [List.replicate_succ', List.foldl_concat]
    obtain ⟨hlast', href'⟩ := waves_commandResult_press (c := c)
      (s := (List.replicate j (.wavsw c true true)).foldl commandResult s) (by rwa [foldl_commandResult_cfg])
    refine ⟨?_, fun _ => href'.trans hlast'.symm⟩
    rw [hlast', nextWave_val, hlast, Nat.mod_add_mod, Nat.add_assoc]

/-- A legal command moves a wave reference to the wave after the last, or not at all (R86). -/
theorem waveRef_commandEffect (s : State) (i : Instr) (ch : Chan) :
    rd (commandEffect s i).waveRef ch = rd s.waveRef ch
      ∨ (rd (commandEffect s i).waveRef ch).val = ((rd s.lastWaveIndex ch).val + 1) % 9 := by
  cases i with
  | wavsw c g p =>
    by_cases hpress : g = true ∧ p = true
    · obtain ⟨rfl, rfl⟩ := hpress
      rw [commandEffect, waveSwitch_press, State.setWave_waveRef, rd_wr]
      split
      next h => exact .inr (h ▸ nextWave_val _)
      next => exact .inl rfl
    · exact .inl (by rw [commandEffect, waveSwitch_of_ne hpress])
  | _ => exact .inl rfl

end Repetition

/-- Settles O21: the rational is monotonic and rounding keeps the order, the error of rounding is at most one half, and
the word written depends on the configuration and the reading alone. -/
theorem tuningWordPropertiesOfTheSource : Obligations.TuningWordPropertiesOfTheSource := by
  refine ⟨fun k c hv hc => ?_, fun s u t c r hcfg hc h => ?_⟩
  · obtain ⟨hrate, -, hhi, -⟩ := tuning_of_valid hv hc
    refine ⟨fun r q hrq _ => tuningWord_mono hrate hhi hrq, ?_, ?_, fun r _ => ?_⟩
    · rw [tuningWord_eq_floor hv hc, tuningX_zero]
    · rw [tuningWord_eq_floor hv hc, tuningX_full]
    · have hstep : 0 ≤ k.tickRate / 2 ^ 32 := by positivity
      calc |outputFreq k (tuningWord k c r) - freq k c r|
          = |tuningWord k c r - tuningX k c r| * (k.tickRate / 2 ^ 32) := by
            rw [outputFreq_sub_freq hrate, abs_mul, abs_of_nonneg hstep]
        _ ≤ 1 / 2 * (k.tickRate / 2 ^ 32) := by
            gcongr
            exact abs_tuningWord_sub_tuningX_le hv hc r
        _ = k.tickRate / 2 ^ 33 := by ring
  · have hcmd : IsCommand (.setfrq c r) := isCommand_of_channelField rfl
    have hv := (exec_next h).1
    obtain ⟨-, hlegal, -⟩ := legal_of_channel_present hc
    rw [exec_legal hv hcmd (hlegal r)] at h
    cases h
    refine ⟨⟨_, exec_legal (hcfg ▸ hv) hcmd (hcfg ▸ hlegal r), rd_tw_setfrq r hcfg.symm⟩, ?_⟩
    refine ⟨_, exec_legal (s := (commandEffect s _).setOut outLow) hv hcmd (hlegal r), ?_⟩
    rw [commandEffect_setOut, setfrq_idempotent]
    exact sameRegs_setOut _ outLow

/-- Settles O23: no press edge writes no wave register, each press edge adds one modulo 9, and no other operation writes
a wave reference. -/
theorem waveSelectCyclesThroughTheLibrary : Obligations.WaveSelectCyclesThroughTheLibrary := by
  refine ⟨fun s c p j hv => ?_, fun s c ch j hv hch hc => ?_, fun i s t ch h => ?_⟩
  · exact ⟨_, execAll_replicate_command hv (isCommand_of_channelField rfl) j, waves_replicate_no_press s c p j⟩
  · obtain rfl := (eq_chan_iff hc).2 hch
    exact ⟨_, execAll_replicate_command hv (isCommand_of_channelField rfl) j, waves_replicate_press hc j⟩
  · obtain ⟨-, ⟨-, rfl⟩ | ⟨-, rfl⟩ | ⟨l, -, -, rfl⟩ | ⟨-, -, -, rfl⟩⟩ := exec_next h
    · exact .inl rfl
    · exact .inl (by rw [tickAll_frame])
    · exact .inl (by rw [State.setOut_waveRef, sampleTriggers_frame])
    · exact waveRef_commandEffect s i ch

end Sys2Proof.Machine

namespace Sys2Proof.Machine

/-! One control pass (41_param R89): all its commands are legal, those for other channels leave a channel alone, and its
own publish its parameters. -/

section ControlPass

variable {k : Cfg} {s t u : State} {i : Instr} {is : List Instr} {c d : Chan} {x : Reading}

/-- The commands of a control pass for one channel (R89). -/
def channelCommands (k : Cfg) (c : Chan) (x : Reading) : List Instr :=
  [.wavsw (chanField c) x.changed x.pressed, .setfrq (chanField c) x.reading] ++ depthCommand k c x.dval

/-- The commands of a control pass for these channels. -/
def passOver (k : Cfg) (r : Vector Reading 4) (l : List Chan) : List Instr :=
  l.flatMap fun c => channelCommands k c (rd r c)

theorem controlPass_eq (k : Cfg) (r : Vector Reading 4) : controlPass k r = passOver k r k.n.channels := rfl

theorem passOver_split (k : Cfg) (r : Vector Reading 4) (l m : List Chan) (c : Chan) :
    passOver k r (l ++ c :: m) = passOver k r l ++ (channelCommands k c (rd r c) ++ passOver k r m) := by
  simp [passOver]

theorem mem_passOver {r : Vector Reading 4} {l : List Chan} :
    i ∈ passOver k r l ↔ ∃ c ∈ l, i ∈ channelCommands k c (rd r c) := List.mem_flatMap

theorem mem_channelCommands :
    i ∈ channelCommands k c x ↔ i = .wavsw (chanField c) x.changed x.pressed ∨ i = .setfrq (chanField c) x.reading
      ∨ rd k.depthEn c = true ∧ i = .setdep (chanField c) x.dval := by
  cases hen : rd k.depthEn c <;> simp [channelCommands, depthCommand, hen]

theorem chanField_toNat (c : Chan) : (chanField c).toNat = c.val := Nat.mod_eq_of_lt (c.isLt.trans (by decide))

@[simp] theorem chan_chanField (c : Chan) : chan (chanField c) = c :=
  Fin.ext ((congrArg (· % 4) (chanField_toNat c)).trans (Nat.mod_eq_of_lt c.isLt))

theorem channelField_channelCommands (h : i ∈ channelCommands k c x) : channelField i = some (chanField c) := by
  obtain rfl | rfl | ⟨-, rfl⟩ := mem_channelCommands.1 h <;> rfl

/-- On a channel of the block the commands are legal if the depth is in range (R53, R55). -/
theorem legal_channelCommands (hc : c.val < k.n.count) (hx : rd k.depthEn c = true → x.dval.toNat ≤ 1024)
    (h : i ∈ channelCommands k c x) : illegal k i = none := by
  have hfield : (chanField c).toNat < k.n.count := by rwa [chanField_toNat]
  obtain ⟨-, hsetfrq, hwavsw⟩ := legal_of_channel_present hfield
  obtain rfl | rfl | ⟨hen, rfl⟩ := mem_channelCommands.1 h
  · exact hwavsw _ _
  · exact hsetfrq _
  · simp [illegal_setdep (chanField_toNat c).symm hfield, hen, hx hen]

theorem SameChannel.trans (h : SameChannel d s t) (h' : SameChannel d t u) : SameChannel d s u := by
  unfold SameChannel at h h' ⊢
  simp_all

/-- Commands for other channels leave a channel alone (R80). -/
theorem foldl_commandEffect_sameChannel (h : ∀ i ∈ is, ∀ c, channelField i = some c → chan c ≠ d) :
    SameChannel d s (is.foldl commandEffect s) := by
  induction is generalizing s with
  | nil => exact ⟨rfl, rfl, rfl, rfl, rfl, rfl, rfl⟩
  | cons i is ih =>
    obtain ⟨hi, his⟩ := List.forall_mem_cons.1 h
    exact (commandEffect_sameChannel hi).trans (ih his)

theorem foldl_commandEffect_cfg (s : State) (is : List Instr) : (is.foldl commandEffect s).cfg = s.cfg := by
  induction is generalizing s with
  | nil => rfl
  | cons i is ih => rw [List.foldl_cons, ih, commandEffect_cfg]

/-- Legal commands after low outputs: the outputs stay low, and the registers take the effects in order. -/
theorem foldl_commandResult_outLow (h : ∀ i ∈ is, illegal s.cfg i = none) :
    is.foldl commandResult (s.setOut outLow) = (is.foldl commandEffect s).setOut outLow := by
  induction is generalizing s with
  | nil => rfl
  | cons i is ih =>
    obtain ⟨hi, his⟩ := List.forall_mem_cons.1 h
    rw [List.foldl_cons, commandResult_legal (s := s.setOut outLow) hi, commandEffect_setOut, List.foldl_cons]
    exact ih (s := commandEffect s i) (by rwa [commandEffect_cfg s i])

/-- Legal commands, at least one, from any outputs (R80). -/
theorem foldl_commandResult_legal (hne : is ≠ []) (h : ∀ i ∈ is, illegal s.cfg i = none) :
    is.foldl commandResult s = (is.foldl commandEffect s).setOut outLow := by
  obtain ⟨i, is, rfl⟩ := List.exists_cons_of_ne_nil hne
  obtain ⟨hi, his⟩ := List.forall_mem_cons.1 h
  rw [List.foldl_cons, commandResult_legal hi, foldl_commandResult_outLow (by rwa [commandEffect_cfg]), List.foldl_cons]

/-- The channel's reading has been published between `s` and `t`: its tuning word, its depth, and its wave advanced on
a press edge (R89). -/
def Published (c : Chan) (x : Reading) (s t : State) : Prop :=
  (rd t.tw c).toNat = tuningWord s.cfg c x.reading.toNat
    ∧ rd t.depth c = (if rd s.cfg.depthEn c then x.dval else rd s.depth c)
    ∧ (rd t.lastWaveIndex c).val =
      (if x.changed ∧ x.pressed then ((rd s.lastWaveIndex c).val + 1) % 9 else (rd s.lastWaveIndex c).val)
    ∧ rd t.waveRef c = (if x.changed ∧ x.pressed then rd t.lastWaveIndex c else rd s.waveRef c)

/-- Publication depends on the channel's own registers and the configuration only. -/
theorem Published.of_sameChannel {s' t' : State} (h : Published c x s' t') (hcfg : s'.cfg = s.cfg)
    (hs : SameChannel c s s') (ht : SameChannel c t' t) : Published c x s t := by
  obtain ⟨-, -, hsref, hslast, hsdepth, -⟩ := hs
  obtain ⟨-, httw, htref, htlast, htdepth, -⟩ := ht
  unfold Published at h ⊢
  rwa [httw, htref, htlast, htdepth, ← hsref, ← hslast, ← hsdepth, ← hcfg]

/-- The commands for one channel publish its reading (R84, R86, R88). -/
theorem published_channelCommands (hv : valid s.cfg = true) (hc : c.val < s.cfg.n.count) (x : Reading) :
    Published c x s ((channelCommands s.cfg c x).foldl commandEffect s) := by
  have htw := toNat_ofNat_tuningWord hv hc x.reading
  by_cases hpress : x.changed = true ∧ x.pressed = true
  · obtain ⟨hchanged, hpressed⟩ := hpress
    cases hen : rd s.cfg.depthEn c <;>
      simp [Published, channelCommands, depthCommand, commandEffect, waveSwitch_press, nextWave_val, hen, hchanged,
        hpressed, htw, -BitVec.toNat_ofNat]
  · cases hen : rd s.cfg.depthEn c <;>
      simp [Published, channelCommands, depthCommand, commandEffect, waveSwitch_of_ne hpress, hen, hpress, htw,
        -BitVec.toNat_ofNat]

/-- The part of a pass before or after a channel's own place is for other channels (R89). -/
theorem passOver_sameChannel {r : Vector Reading 4} {l : List Chan} (h : d ∉ l) :
    SameChannel d s ((passOver k r l).foldl commandEffect s) := by
  refine foldl_commandEffect_sameChannel fun i hi c hc hcd => h ?_
  obtain ⟨e, he, hie⟩ := mem_passOver.1 hi
  rw [channelField_channelCommands hie, Option.some.injEq] at hc
  rwa [← hcd, ← hc, chan_chanField]

/-- A control pass publishes the reading of every channel: each channel has its place in it, and the commands before
and after are for others (R89). -/
theorem published_controlPass (r : Vector Reading 4) (hv : valid s.cfg = true) (hc : c.val < s.cfg.n.count) :
    Published c (rd r c) s ((controlPass s.cfg r).foldl commandEffect s) := by
  obtain ⟨l, m, hlm⟩ := List.append_of_mem ((mem_channels s.cfg.n c).2 hc)
  have hnodup := channels_nodup s.cfg.n
  rw [hlm, List.nodup_middle, List.nodup_cons, List.mem_append, not_or] at hnodup
  obtain ⟨⟨hl, hm⟩, -⟩ := hnodup
  rw [controlPass_eq, hlm, passOver_split, List.foldl_append, List.foldl_append]
  have hcfg := foldl_commandEffect_cfg s (passOver s.cfg r l)
  have hown := published_channelCommands (hcfg ▸ hv) (hcfg ▸ hc) (rd r c)
  rw [hcfg] at hown
  exact hown.of_sameChannel hcfg (passOver_sameChannel hl) (passOver_sameChannel hm)

end ControlPass

/-- Settles O25: a pass is a list of legal commands, which run one after the other with low outputs. -/
theorem controlPassPublishesEveryParameter : Obligations.ControlPassPublishesEveryParameter := by
  intro s r hv hdepth
  have hcommand : ∀ i ∈ controlPass s.cfg r, IsCommand i ∧ illegal s.cfg i = none := fun i hi => by
    obtain ⟨c, hc, hi⟩ := mem_passOver.1 hi
    have hc := (mem_channels _ c).1 hc
    exact ⟨isCommand_of_channelField (channelField_channelCommands hi), legal_channelCommands hc (hdepth c hc) hi⟩
  have hne : controlPass s.cfg r ≠ [] :=
    List.ne_nil_of_mem (mem_passOver.2 ⟨0, zero_mem_channels _, mem_channelCommands.2 (.inl rfl)⟩)
  have hrun := foldl_commandResult_legal hne fun i hi => (hcommand i hi).2
  have hframe := commandFrame_foldl_commandResult s (controlPass s.cfg r)
  refine ⟨fun i hi => (decode_encode (hcommand i hi).1).trans (judge_legal (hcommand i hi).2), _,
    execAll_commands hv fun i hi => (hcommand i hi).1, ?_⟩
  rw [hrun] at hframe ⊢
  exact ⟨rfl, hframe, fun c hc => published_controlPass r hv hc⟩

end Sys2Proof.Machine

namespace Sys2Proof.Machine

/-! One sample of the triggers and runs of samples (42_sync R95 to R100). -/

section Samples

variable {s t : State} {l : BitVec 4} {c : Chan} {i : Instr}

/-- What a `SYNCSMP` whose levels fit answers (R95, R96). -/
theorem exec_syncsmp_sampled (hv : valid s.cfg = true) (hl : levelsFit s.cfg l = true) :
    ∃ t, exec (.syncsmp l) s = .next t ∧ Sampled l s t ∧ SameControl s t ∧ t.out = {} :=
  ⟨_, exec_syncsmp hv hl, sampled_sampleTriggers s l, sampleTriggers_control s l, rfl⟩

theorem Sampled.acc_of_activeEdge (h : Sampled l s t) (hc : c.val < s.cfg.n.count) (he : ActiveEdge s l c) :
    rd t.acc c = 0 := by
  obtain ⟨hsync, -⟩ := h
  obtain ⟨-, hactive, -⟩ := hsync c hc he.1
  exact hactive he

/-- Every channel with sync has stored its level of these trigger levels (R96). -/
def LevelsStored (l : BitVec 4) (s : State) : Prop :=
  ∀ c : Chan, c.val < s.cfg.n.count → rd s.cfg.syncEn c = true → levelAt l (rd s.cfg.syncSrc c) = rd s.syncLastLevel c

theorem LevelsStored.edge_eq_false (h : LevelsStored l s) (hc : c ∈ s.cfg.n.channels) : edge l s c = false := by
  cases he : rd s.cfg.syncEn c with
  | false => simp [edge, he]
  | true => simp [edge, he, h c ((mem_channels _ c).1 hc) he]

/-- Without an edge on any channel a sample writes nothing (R96, R100). -/
theorem LevelsStored.sampleTriggers_eq (h : LevelsStored l s) : sampleTriggers l s = s := by
  have hacc : (sampleTriggers l s).acc = s.acc := ext_rd fun c => by
    rw [sampleTriggers_acc, if_neg]
    rintro ⟨hc, he⟩
    simp [activeEdge, h.edge_eq_false hc] at he
  have hlevel : (sampleTriggers l s).syncLastLevel = s.syncLastLevel := ext_rd fun c => by
    rw [sampleTriggers_level, if_neg]
    rintro ⟨hc, he⟩
    simp [h.edge_eq_false hc] at he
  rw [sampleTriggers_self, State.withSample, hacc, hlevel]

/-- A sample stores its own levels (R96). -/
theorem Sampled.levelsStored (h : Sampled l s t) : LevelsStored l t := by
  obtain ⟨hsync, -, -, -, ⟨hcfg, -⟩, -⟩ := h
  intro c hc he
  rw [hcfg] at hc he ⊢
  exact (hsync c hc he).1.symm

/-- A second sample of the same levels answers the state it starts in (R100). -/
theorem exec_syncsmp_again (h : exec (.syncsmp l) s = .next t) : exec (.syncsmp l) t = .next t := by
  by_cases hl : levelsFit s.cfg l = true
  · have hv := (exec_next h).1
    have hcfg := cfg_of_exec_next h
    rw [exec_syncsmp hv hl] at h
    cases h
    have hstored : LevelsStored l ((sampleTriggers l s).setOut outLow) := (sampled_sampleTriggers s l).levelsStored
    rw [exec_syncsmp (hcfg ▸ hv) (hcfg ▸ hl), hstored.sampleTriggers_eq]
    rfl
  · rw [exec_syncsmp_unfit hl] at h
    cases h

/-- An operation that answers the state it starts in answers it any number of times. -/
theorem execAll_replicate_of_fixed (h : exec i t = .next t) (j : Nat) : execAll (List.replicate j i) t = .next t := by
  induction j with
  | zero => rfl
  | succ j ih => rw [List.replicate_succ, execAll_cons h, ih]

end Samples

/-- Settles O43: the two clauses of a sample on a channel with sync, read in the cases of R96. -/
theorem syncsmpIsALevelCompareEdgeDetector : Obligations.SyncsmpIsALevelCompareEdgeDetector := by
  intro s l hv hl
  obtain ⟨t, ht, ⟨hsync, hnosync, hparams, houtputs, hconfig, hlatches⟩, hcontrol, hout⟩ :=
    exec_syncsmp_sampled hv (decide_eq_true hl)
  refine ⟨t, ht, fun c hc he => ?_, hnosync, hparams, houtputs, hconfig, hcontrol, hlatches, hout⟩
  obtain ⟨hlevel, hactive, hpassive⟩ := hsync c hc he
  refine ⟨fun heq => ⟨hlevel.trans heq, hpassive fun h => ?_⟩, fun hne hpol => ⟨hlevel, hactive ⟨he, hne, hpol⟩⟩,
    fun _ hpol => ⟨hlevel, hpassive fun h => ?_⟩⟩
  · obtain ⟨-, hne, -⟩ := h
    exact hne heq
  · obtain ⟨-, -, heq⟩ := h
    exact hpol heq

/-- Settles O44: the sample leaves 0 in the accumulator and the tuning word in place, and the tick adds the two. -/
theorem syncResetIsExactAndTheNextTickStartsFromIt : Obligations.SyncResetIsExactAndTheNextTickStartsFromIt := by
  intro s l c hv hl hc he hne hpol
  obtain ⟨t, ht, hsampled, -, -⟩ := exec_syncsmp_sampled hv hl
  have hzero := hsampled.acc_of_activeEdge hc ⟨he, hne, hpol⟩
  obtain ⟨-, -, ⟨htw, hwave, hlast, hdep⟩, ⟨hpwm, -, -⟩, ⟨hcfg, -⟩, -⟩ := hsampled
  have hmem : c ∈ t.cfg.n.channels := by rwa [hcfg, mem_channels]
  have hacc : rd (tickAll t).acc c = rd s.tw c := by rw [rd_acc_tickAll hmem, hzero, htw, zero_add]
  refine ⟨⟨t, ht, hzero, hpwm, htw, hwave, hlast, hdep⟩, tickAll t, ?_, hacc, fun hdepth => ?_⟩
  · rw [execAll_cons ht, execAll_singleton (exec_tick (hcfg ▸ hv))]
  · rw [rd_pwm_tickAll hmem, hacc, hcfg, hwave, hdepth, scaleSample_disabled]

/-- Settles O45: the sample is an active edge for both channels. -/
theorem sharedTriggerResetsBothChannels : Obligations.SharedTriggerResetsBothChannels := by
  intro s l c d hv hl hc hd hec hed hsrc hpol hlevel hne hactive
  obtain ⟨t, ht, hsampled, -, -⟩ := exec_syncsmp_sampled hv hl
  have hedge : ActiveEdge s l c := ⟨hec, hactive ▸ hne.symm, hactive⟩
  have hedge' : ActiveEdge s l d := by
    obtain ⟨-, hedge⟩ := hedge
    rw [hsrc, hpol, hlevel] at hedge
    exact ⟨hed, hedge⟩
  exact ⟨t, ht, hsampled.acc_of_activeEdge hc hedge, hsampled.acc_of_activeEdge hd hedge'⟩

/-- Settles O46: without an edge a sample writes the outputs only, and after the first sample of a run there is no edge. -/
theorem repeatedSamplesCollapse : Obligations.RepeatedSamplesCollapse := by
  refine ⟨fun s l hv hl hstored => ⟨_, exec_syncsmp hv hl, ?_⟩, fun s t l j h => ?_⟩
  · rw [LevelsStored.sampleTriggers_eq hstored]
    exact sameRegs_setOut s outLow
  · rw [List.replicate_succ, execAll_cons h, execAll_replicate_of_fixed (exec_syncsmp_again h)]

end Sys2Proof.Machine

namespace Sys2Proof.Machine

/-! Every step completes but on an ill-formed trace word (60_exceptions R105): what each event of the environment answers
under a valid `Cfg`. -/

section Completion

variable {s : State} {i : Instr} {rest : List Event}

theorem step_no_event (hb : s.inbox = []) : step s = running s (microStep s) := by
  simp [step, nextEvent, hb]

theorem step_reset (hb : s.inbox = .reset :: rest) : step s = running s (s.take rest).resetRegs := by
  simp [step, nextEvent, hb]

/-- Under a valid `Cfg` level bits that do not fit are all that can keep an operation from completing (R51, R105). -/
theorem exec_completes (hv : valid s.cfg = true) (hl : ∀ l, i = .syncsmp l → levelsFit s.cfg l = true) :
    ∃ t, exec i s = .next t := by
  obtain hc | rfl | ⟨l, rfl⟩ := isCommand_cases i
  · exact ⟨_, exec_command hv hc⟩
  · exact ⟨_, exec_tick hv⟩
  · exact ⟨_, exec_syncsmp hv (hl l rfl)⟩

/-- The trace word is ill formed for this `Cfg`, as the port event `e` (R51). -/
def IllFormedWord (k : Cfg) (w : EventWord) (e : PortEvent) : Prop :=
  decodeShape w = .malformed e
    ∨ e = .syncsmp ∧ ∃ l, decodeShape w = .instr (.syncsmp l) ∧ levelsFit k l = false

theorem runWord_answers (hv : valid s.cfg = true) (w : EventWord) :
    (∃ t, runWord w s = .next t)
      ∨ ∃ e, IllFormedWord s.cfg w e ∧ runWord w s = .refused (.illFormedTrace e s.pos) := by
  cases hd : decodeShape w with
  | instr i =>
    rw [runWord_instr hd]
    by_cases hl : ∀ l, i = .syncsmp l → levelsFit s.cfg l = true
    · exact .inl (exec_completes hv hl)
    · push Not at hl
      obtain ⟨l, rfl, hfit⟩ := hl
      exact .inr ⟨.syncsmp, .inr ⟨rfl, l, hd, Bool.eq_false_of_not_eq_true hfit⟩, exec_syncsmp_unfit hfit⟩
  | illegal r => exact .inl ⟨s.reject, by simp [runWord, hd, running_valid hv]⟩
  | malformed e => exact .inr ⟨e, .inl hd, runWord_malformed hd⟩

theorem runCommand_completes (hv : valid s.cfg = true) (w : EventWord) : ∃ t, runCommand w s = .next t := by
  cases hd : decode s.cfg w with
  | ok i => exact ⟨_, (runCommand_ok hd).trans (exec_decoded hv hd)⟩
  | error r => exact ⟨_, runCommand_error hv hd⟩

theorem clockCycle_completes (hv : valid s.cfg = true) (p : Pins) : ∃ t, clockCycle p s = .next t := by
  cases hr : p.rst with
  | true => exact ⟨s.resetRegs, by rw [clockCycle, if_pos hr, running_valid hv]⟩
  | false =>
    by_cases hp : s.phase = .idle
    · obtain ⟨u, hu, -⟩ := portCycle_answers hv p
      exact ⟨_, clockCycle_idle hr hp hu⟩
    · exact ⟨_, clockCycle_busy_next hv hr hp⟩

theorem step_answers (hv : valid s.cfg = true) :
    (∃ t, step s = .next t)
      ∨ s.phase = .idle ∧ ∃ w rest e, s.inbox = .word w :: rest ∧ IllFormedWord s.cfg w e
        ∧ step s = .refused (.illFormedTrace e (s.pos + 1)) := by
  cases hb : s.inbox with
  | nil => exact .inl ⟨_, (step_no_event hb).trans (running_valid hv)⟩
  | cons ev rest =>
    cases ev with
    | word w =>
      by_cases hp : s.phase = .idle
      · rw [step_word_idle hp hb]
        refine (runWord_answers (s := s.take rest) hv w).imp_right fun ⟨e, hill, href⟩ => ?_
        exact ⟨hp, w, rest, e, rfl, hill, href⟩
      · exact .inl ⟨_, (step_operation_busy hp (.inl hb)).trans (running_valid hv)⟩
    | command w =>
      by_cases hp : s.phase = .idle
      · rw [step_command_idle hp hb]
        exact .inl (runCommand_completes (s := s.take rest) hv w)
      · exact .inl ⟨_, (step_operation_busy hp (.inr hb)).trans (running_valid hv)⟩
    | reset => exact .inl ⟨_, (step_reset hb).trans (running_valid hv)⟩
    | clock p =>
      rw [step_clock hb]
      exact .inl (clockCycle_completes (s := s.take rest) hv p)

end Completion

/-- Settles O15: the step by its event, an operation by its kind. -/
theorem everyStepCompletesOrNamesAnIllFormedWord : Obligations.EveryStepCompletesOrNamesAnIllFormedWord :=
  fun _ hv => ⟨step_answers hv, fun _ => exec_completes hv⟩

end Sys2Proof.Machine

namespace Sys2Proof.Machine

/-! What the control side can do to the tick's registers (60_exceptions R112). -/

section ControlSide

variable {s t : State} {i : Instr} {is : List Instr} {c : Chan}

/-- Only `TICK` writes the compare registers and the counters (R21). -/
theorem sameOutputs_of_exec_next (hi : i ≠ .tick) (h : exec i s = .next t) : SameOutputs s t := by
  obtain ⟨-, -, -, -, -, hwriters, -, -⟩ := eachRegisterHasItsWriters i s t h
  have hsame := mt hwriters hi
  rwa [not_or, not_or, not_not, not_not, not_not] at hsame

theorem SameOutputs.trans {u : State} (h : SameOutputs s t) (h' : SameOutputs t u) : SameOutputs s u := by
  obtain ⟨hpwm, htick, hslow⟩ := h
  obtain ⟨hpwm', htick', hslow'⟩ := h'
  exact ⟨hpwm'.trans hpwm, htick'.trans htick, hslow'.trans hslow⟩

/-- What a `SYNCSMP` that answers has done (R95). -/
theorem eq_of_exec_syncsmp {l : BitVec 4} (h : exec (.syncsmp l) s = .next t) :
    t = (sampleTriggers l s).setOut outLow := by
  by_cases hl : levelsFit s.cfg l = true
  · rw [exec_syncsmp (exec_next h).1 hl] at h
    cases h
    rfl
  · rw [exec_syncsmp_unfit hl] at h
    cases h

/-- Besides `TICK` only an active edge changes an accumulator, and it writes 0 (R96, R112). -/
theorem activeEdge_of_acc_ne (hi : i ≠ .tick) (h : exec i s = .next t) (hne : rd t.acc c ≠ rd s.acc c) :
    rd t.acc c = 0 ∧ ∃ l, i = .syncsmp l ∧ c.val < s.cfg.n.count ∧ ActiveEdge s l c := by
  obtain ⟨hwriters, -⟩ := eachRegisterHasItsWriters i s t h
  obtain ⟨l, rfl⟩ := (hwriters fun hacc => hne (by rw [hacc])).resolve_left hi
  have hacc := sampleTriggers_acc l s c
  rw [← State.setOut_acc (sampleTriggers l s) outLow, ← eq_of_exec_syncsmp h] at hacc
  split at hacc
  next hedge =>
    obtain ⟨hc, hactive⟩ := hedge
    exact ⟨hacc, l, rfl, (mem_channels _ c).1 hc, (activeEdge_iff s l c).1 hactive⟩
  next => exact absurd hacc hne

/-- A run without `TICK` keeps an accumulator or ends with the 0 of one of its samples (R112). -/
theorem acc_of_execAll_without_tick (hi : ∀ i ∈ is, i ≠ .tick) (h : execAll is s = .next t) :
    (rd t.acc c = rd s.acc c ∨ rd t.acc c = 0 ∧ ∃ l, Instr.syncsmp l ∈ is) ∧ SameOutputs s t := by
  induction is using List.reverseRecOn generalizing t with
  | nil =>
    cases h
    exact ⟨.inl rfl, rfl, rfl, rfl⟩
  | append_singleton is i ih =>
    obtain ⟨u, hu, ht⟩ := execAll_concat_next h
    have hne : i ≠ .tick := hi i (List.mem_append_right is (List.mem_singleton_self i))
    obtain ⟨hacc, hout⟩ := ih (fun j hj => hi j (List.mem_append_left [i] hj)) hu
    refine ⟨?_, hout.trans (sameOutputs_of_exec_next hne ht)⟩
    by_cases hkeep : rd t.acc c = rd u.acc c
    · rw [hkeep]
      exact hacc.imp_right (And.imp_right fun ⟨l, hl⟩ => ⟨l, List.mem_append_left [i] hl⟩)
    · obtain ⟨hzero, l, rfl, -, -⟩ := activeEdge_of_acc_ne hne ht hkeep
      exact .inr ⟨hzero, l, List.mem_append_right is (List.mem_singleton_self _)⟩

end ControlSide

/-- Settles O55: a run by its last operation, which keeps the accumulator or zeroes it by an active edge. -/
theorem controlSideOnlyZeroesAnAccumulator : Obligations.ControlSideOnlyZeroesAnAccumulator :=
  ⟨fun _ _ _ _ => acc_of_execAll_without_tick, fun _ _ _ _ => activeEdge_of_acc_ne⟩

end Sys2Proof.Machine

namespace Sys2Proof.Machine

/-! Reset and the ticks before the first command (70_reset R120, R124). -/

section Reset

variable {s : State} {p : Pins} {c : Chan}

/-- `RESET` gives every register its value of R25, from any state (R120). -/
theorem atReset_resetRegs (s : State) : AtReset s.cfg s.resetRegs :=
  ⟨rfl, resetValuesOfEveryRegister (State.resetOf s.cfg) (.inr ⟨s.cfg, rfl⟩)⟩

theorem clockCycle_rst (hv : valid s.cfg = true) (hr : p.rst = true) : clockCycle p s = .next s.resetRegs := by
  rw [clockCycle, if_pos hr, running_valid hv]

theorem cmdReady_rst (hr : p.rst = true) : (ports p s).cmdReady = false := by simp [cmdReadyIn, hr]

theorem cmdReady_idle (hp : s.phase = .idle) (hr : p.rst = false) : (ports p s).cmdReady = true := by
  simp [cmdReadyIn, hp, hr]

/-- At full depth the scaled sample is the sample (R65). -/
theorem scaleSample_full (enabled : Bool) (v : Byte) : scaleSample enabled v 1024 = v := by
  have hfull : (1024 : BitVec 11).toNat = 1024 := rfl
  apply BitVec.eq_of_toNat_eq
  rw [scaleSample_toNat _ _ hfull.le, hfull, Nat.mul_div_cancel _ (by decide), ite_self]

theorem ticks_depth (m : Nat) (s : State) : (tickAll^[m] s).depth = s.depth := by
  induction m with
  | zero => rfl
  | succ m ih => rwa [Function.iterate_succ_apply', tickAll_frame]

/-- A tuning word of 0 adds nothing to the accumulator, however often (R68). -/
theorem rd_acc_ticks_of_tw_zero (m : Nat) (hv : valid s.cfg = true) (hc : c.val < s.cfg.n.count)
    (hacc : rd s.acc c = 0) (htw : rd s.tw c = 0) : rd (tickAll^[m] s).acc c = 0 := by
  apply BitVec.eq_of_toNat_eq
  rw [rd_acc_ticks m hv hc, hacc, htw]
  simp

/-- A tick that ends with the accumulator at 0, at full depth, writes the first entry of the channel's table (R60). -/
theorem rd_pwm_tickAll_first_entry (hc : c ∈ s.cfg.n.channels) (hacc : rd (tickAll s).acc c = 0)
    (hdepth : rd s.depth c = 1024) : rd (tickAll s).pwm c = romRead s.cfg (rd s.waveRef c) 0 := by
  rw [rd_pwm_tickAll hc, hacc, hdepth, scaleSample_full]
  rfl

end Reset

/-- Settles O49: `rst` and the event `RESET` both end in `resetRegs`, whose registers are those of R25. -/
theorem rstOverridesEverything : Obligations.RstOverridesEverything := by
  refine ⟨fun s p hv hr => ⟨cmdReady_rst hr, s.resetRegs, clockCycle_rst hv hr, ?_⟩, fun s rest hv hb => ?_⟩
  · exact ⟨atReset_resetRegs s, rfl, rfl, fun q => cmdReady_idle rfl⟩
  · have hstep : step s = .next (s.take rest).resetRegs := (step_reset hb).trans (running_valid hv)
    exact ⟨_, hstep, atReset_resetRegs (s.take rest), rfl, rfl, rfl⟩

/-- Settles O58: the accumulator stays at 0, and the last tick writes from wave 0 at full depth, as at reset. -/
theorem ticksBeforeAnyCommandRepeatTheFirstEntry : Obligations.TicksBeforeAnyCommandRepeatTheFirstEntry := by
  intro k j hv hj
  refine ⟨tickAll^[j] (State.resetOf k), execAll_ticks j hv, fun c hc => ?_⟩
  have hacc : rd (tickAll^[j] (State.resetOf k)).acc c = 0 :=
    rd_acc_ticks_of_tw_zero j hv hc (rd_replicate 0 c) (rd_replicate 0 c)
  refine ⟨hacc, ?_⟩
  obtain ⟨m, rfl⟩ := Nat.exists_eq_add_one.2 hj
  obtain ⟨hcfg, hwave⟩ := ticks_frame m (State.resetOf k)
  have hwave0 : rd (State.resetOf k).waveRef c = 0 := rd_replicate 0 c
  have hdepth : rd (tickAll^[m] (State.resetOf k)).depth c = 1024 := by
    rw [ticks_depth]
    exact rd_replicate 1024 c
  rw [Function.iterate_succ_apply'] at hacc ⊢
  rw [rd_pwm_tickAll_first_entry ((mem_channels _ c).2 (hcfg ▸ hc)) hacc hdepth, hcfg, hwave, hwave0]
  rfl

end Sys2Proof.Machine
